-- ==== Sys2Proof/Word.lean ====
section
/-! DEFINITION. The two word types of the block: a sample or an 8-bit field, and a bus word. -/

namespace Sys2Proof

/-- A Sample, a buffer cell or an 8-bit register (00_scope.md R6). -/
abbrev Byte := BitVec 8

/-- A bus word, a raw reading, a time stamp (00_scope.md R9). -/
abbrev Word := BitVec 32

end Sys2Proof
end

