-- ==== Sys2Proof/Syntax.lean ====
section
/-! DEFINITION. The six commands of OSCACQ-1, one constructor per row of spec/opcode_table.json. -/

namespace Sys2Proof

/-- A command word's content (30_encoding.md R90 to R92). The operand is the whole `ARG` field, 0 to 255:
an operand out of range still decodes to its command and is refused at issue (R95). -/
inductive Instr where
  /-- `CAPT n`: capture `n` samples (41_acquisition.md R130). -/
  | capt (n : Byte)
  /-- `PUT i`: one sample into cell `i` (41_acquisition.md R133). -/
  | put (i : Byte)
  /-- `ROLL`: shift down and append one sample (43_buffer.md R180). -/
  | roll
  /-- `TRIG`: one trigger search (42_trigger.md R150). -/
  | trig
  /-- `ACQ n`: one search, then a capture of `n` samples (42_trigger.md R160). -/
  | acq (n : Byte)
  /-- `CLR`: zero the buffer (43_buffer.md R183). -/
  | clr
deriving DecidableEq, Repr

end Sys2Proof
end

