-- ==== Sys2Proof/Decode.lean ====
section
/-! DEFINITION. The command decoder of 30_encoding.md R93 (its steps 2 to 4), total on 32-bit words, and the encoder of R97. -/

namespace Sys2Proof

/-- Why a word is no command (30_encoding.md R93, R94); each is refused with `ERR.OP`. -/
inductive DecodeError where
  /-- Bits 31:16 are not zero (R93 step 2). -/
  | zeroFieldSet
  /-- Bits 7:0 are not 0x01 to 0x06 (R93 step 3). -/
  | unknownOpcode
  /-- `ROLL`, `TRIG` or `CLR` with a nonzero `ARG` (R93 step 4). -/
  | operandNotAllowed
deriving DecidableEq, Repr

/-- `OPC`, bits 7:0 (30_encoding.md R90). -/
def opcField (w : Word) : Byte := w.extractLsb' 0 8

/-- `ARG`, bits 15:8, used as it stands (30_encoding.md R90, R91). -/
def argField (w : Word) : Byte := w.extractLsb' 8 8

/-- `ZERO`, bits 31:16 (30_encoding.md R90). -/
def zeroField (w : Word) : BitVec 16 := w.extractLsb' 16 16

/-- A command with no operand: `ARG` must be zero (30_encoding.md R93 step 4). -/
def withoutOperand (i : Instr) (arg : Byte) : Except DecodeError Instr :=
  if arg = 0 then .ok i else .error .operandNotAllowed

/-- The opcode map (30_encoding.md R92). -/
def decodeFields (opc arg : Byte) : Except DecodeError Instr :=
  if opc = 0x01#8 then .ok (.capt arg)
  else if opc = 0x02#8 then .ok (.put arg)
  else if opc = 0x03#8 then withoutOperand .roll arg
  else if opc = 0x04#8 then withoutOperand .trig arg
  else if opc = 0x05#8 then .ok (.acq arg)
  else if opc = 0x06#8 then withoutOperand .clr arg
  else .error .unknownOpcode

/-- The decoder: every word gets one verdict (30_encoding.md R93 steps 2 to 4, R96). -/
def decode (w : Word) : Except DecodeError Instr :=
  if zeroField w ≠ 0 then .error .zeroFieldSet
  else decodeFields (opcField w) (argField w)

/-- The word `(ARG << 8) | OPC` (30_encoding.md R97). -/
def assemble (opc arg : Byte) : Word := (arg.setWidth 32 <<< 8) ||| opc.setWidth 32

/-- The opcode numbers of 30_encoding.md R92. -/
def Instr.opcode : Instr → Byte
  | .capt _ => 0x01#8
  | .put _ => 0x02#8
  | .roll => 0x03#8
  | .trig => 0x04#8
  | .acq _ => 0x05#8
  | .clr => 0x06#8

/-- The `ARG` field of a command (30_encoding.md R92). -/
def Instr.operand : Instr → Byte
  | .capt n => n
  | .put i => i
  | .roll => 0
  | .trig => 0
  | .acq n => n
  | .clr => 0

/-- The command word of a command (30_encoding.md R97). -/
def encode (i : Instr) : Word := assemble i.opcode i.operand

/-- The `mask` column of 30_encoding.md R92. -/
def Instr.mask : Instr → Word
  | .capt _ => 0xFFFF00FF#32
  | .put _ => 0xFFFF00FF#32
  | .roll => 0xFFFFFFFF#32
  | .trig => 0xFFFFFFFF#32
  | .acq _ => 0xFFFF00FF#32
  | .clr => 0xFFFFFFFF#32

/-- The `match` column of 30_encoding.md R92. -/
def Instr.pattern : Instr → Word
  | .capt _ => 0x00000001#32
  | .put _ => 0x00000002#32
  | .roll => 0x00000003#32
  | .trig => 0x00000004#32
  | .acq _ => 0x00000005#32
  | .clr => 0x00000006#32

/-- What the decoder reads from an instruction whose bits are `w`, all bits at and above `nbits` zero. A command is one
32-bit bus word, so there is no byte order to undo (20_memory.md R67). -/
def decodeTableWord (nbits w : Nat) : Option Instr :=
  (decode (BitVec.ofNat 32 (w % 2 ^ nbits))).toOption

end Sys2Proof
end

