-- ==== Sys2Proof/Config.lean ====
section
/-! DEFINITION. The parameters of the block (00_scope.md section 4) and its free values: uninterpreted constants, of which nothing can be proved but that they have a value. -/

namespace Sys2Proof

/-- The two documented variants of the block (00_scope.md R8): "256 in the richer variant, 128 in the simpler one". -/
inductive TriggerVariant where
  | simpler
  | richer
deriving DecidableEq, Repr, Inhabited

/-- `MAX_TRIGGER_CYCLES` of a variant (00_scope.md R8). -/
def TriggerVariant.cycles : TriggerVariant → Nat
  | .simpler => 128
  | .richer => 256

/-- The two agents that take steps on the block's state (00_scope.md R10). -/
inductive Agent where
  | host
  | engine
deriving DecidableEq, Repr, Inhabited

namespace Config

/-- `SAMPLES` (00_scope.md R6). -/
def samples : Nat := 128

/-- `PX_PER_VDIV` (00_scope.md R7). -/
def pxPerVdiv : Int := 16

/-- `PX_PER_HDIV`, used by the host only (00_scope.md R7). -/
def pxPerHdiv : Nat := 32

/-- The host's async threshold in milliseconds (00_scope.md R9). -/
def asyncThresholdMs : Nat := 101

/-- The host's rolling threshold in milliseconds (00_scope.md R9). -/
def rollingThresholdMs : Nat := 1000

/-- Which variant this block is: left open by the spec (00_scope.md R8, D12). Log 7. -/
opaque triggerVariant : TriggerVariant

/-- The analog channel's answers that no list has fixed (40_sampling.md R114, U12). Log 3. -/
opaque freeReading : Nat → Word

/-- The time base's answers that no list has fixed (40_sampling.md R116, U13). Log 4. -/
opaque freeTime : Nat → Word

/-- How many turns the host takes before the engine's turn number `k`, where no list has fixed who moves: any number,
but never all (20_memory.md R71, 70_reset_and_hazards.md R264, U14, U15). Log 2. -/
opaque freePatience : Nat → Nat

/-- The UNSPECIFIED values of reads made while busy (00_scope.md R12, U10). Log 6. -/
opaque unspecified : Nat → Word

end Config

end Sys2Proof
end

