-- ==== Sys2Proof/Machine/State.lean ====
section
/-! DEFINITION. The state of the block (10_state.md R20), with the model's own record of the environment (the oracles' answers, the host's statements, the turns) and of what the host observed. -/

namespace Sys2Proof.Machine

/-- The trigger state (10_state.md R41). -/
inductive TState where
  | armedBelow
  | armedAbove
  | fired
  | gaveUp
deriving DecidableEq, Repr

/-- The sequencer's phase `PH` (10_state.md R38). -/
inductive Phase where
  | idle
  | trigCheck
  | trigProbe
  | captLoop
  | putOne
  | rollOne
  | clrAll
deriving DecidableEq, Repr

/-- `OPC`: which command is in progress (10_state.md R39). -/
inductive Command where
  | capt
  | put
  | roll
  | trig
  | acq
  | clr
deriving DecidableEq, Repr

/-- The five causes of refusal, the bits of `ERR` (10_state.md R31). -/
inductive ErrBit where
  | op
  | arg
  | cfg
  | bsy
  | addr
deriving DecidableEq, Repr

/-- The width of a bus access in bytes (20_memory.md R62). -/
inductive Width where
  | one
  | two
  | four
deriving DecidableEq, Repr

/-- A host access: kind, offset, width and, for a write, the value (20_memory.md R62). Of a write's value only the
bits of its width exist on the bus; every legal write is four bytes wide (R64, R65). -/
inductive Access where
  | read (offset : Byte) (width : Width)
  | write (offset : Byte) (width : Width) (value : Word)
deriving DecidableEq, Repr

/-- One thing the outside world does to the block. -/
inductive HostStmt where
  /-- One bus access (30_encoding.md R98: `WR`, `RD`, `RDB`, `RDW` and the command mnemonics). -/
  | access (a : Access)
  /-- `WAIT`: `RD STATUS`, again and again, until the value read has bit 0 clear (30_encoding.md R98). -/
  | wait
  /-- The reset input goes to this level: asserted, or released (70_reset_and_hazards.md R250). Log 15. -/
  | resetInput (asserted : Bool)
deriving DecidableEq, Repr

/-- One answered read: what the host observes (00_scope.md R16). -/
structure BusRead where
  offset : Byte
  width : Width
  value : Word
deriving DecidableEq, Repr

/-- Answers of one oracle: those lined up, oldest first, and how many were drawn so far. Past the end of the list the
answers are an uninterpreted constant of Config applied to `drawn`. -/
structure Draws (α : Type) where
  pending : List α
  drawn : Nat
deriving DecidableEq, Repr

/-- The buffer's cells, keyed by register-space offset (20_memory.md R61): offsets strictly rising, no cell listed that
holds 0x00, which is what an unlisted cell reads as (10_state.md R36: reset value of every cell). Log 10. -/
abbrev Memory := List Host.Cell

/-- The state of the block, then the model's own fields. -/
structure State where
  /-- `SCALE_MV` (10_state.md R22). -/
  scaleMv : BitVec 16
  /-- `ATTEN` (10_state.md R23). -/
  atten : BitVec 8
  /-- `INTERVAL_US` (10_state.md R24). -/
  intervalUs : BitVec 32
  /-- `TRIG_UV`, two's complement (10_state.md R25). -/
  trigUv : BitVec 32
  /-- `PROBE_W` (10_state.md R26). -/
  probeW : BitVec 8
  /-- `STATUS.BUSY` (10_state.md R42). -/
  busy : Bool
  /-- `STATUS.DONE` (10_state.md R43). -/
  done : Bool
  /-- `STATUS.TSTATE` (10_state.md R41). -/
  tstate : TState
  /-- `CTRL.IE` (10_state.md R30). -/
  ie : Bool
  /-- `ERR`: bit 0 `OP`, 1 `ARG`, 2 `CFG`, 3 `BSY`, 4 `ADDR` (10_state.md R31). -/
  err : BitVec 5
  /-- `ATTEMPTS` (10_state.md R32). -/
  attempts : BitVec 9
  /-- `TRIG_LEVEL`, two's complement (10_state.md R33). -/
  trigLevel : BitVec 32
  /-- `MAXCYC` (10_state.md R34), as the variant that fixes it. -/
  maxcyc : TriggerVariant
  /-- `BUF[0..127]` (10_state.md R36). -/
  buf : Memory
  /-- `PH` (10_state.md R38). -/
  ph : Phase
  /-- `OPC` (10_state.md R39). -/
  opc : Command
  /-- `N` (10_state.md R39). -/
  n : BitVec 8
  /-- `IDX` (10_state.md R39). -/
  idx : BitVec 7
  /-- `I` (10_state.md R39). -/
  i : BitVec 8
  /-- `J` (10_state.md R39). -/
  j : BitVec 8
  /-- `PB` (10_state.md R39). -/
  pb : Bool
  /-- `PA` (10_state.md R39). -/
  pa : Bool
  /-- `T0` (10_state.md R39). -/
  t0 : BitVec 32
  /-- The level of the reset input: is it asserted (70_reset_and_hazards.md R250). Log 15. -/
  resetAsserted : Bool
  /-- MODEL: the analog channel's answers (40_sampling.md R114). Log 3. -/
  adc : Draws Word
  /-- MODEL: the time base's answers (40_sampling.md R116). Log 4. -/
  now : Draws Word
  /-- MODEL: whose turn it is when both agents can move (20_memory.md R71), fair to the engine past the list
  (70_reset_and_hazards.md R264). Log 2. -/
  turns : Draws Agent
  /-- MODEL: how many UNSPECIFIED values were drawn (00_scope.md R12). Log 6. -/
  unspecDraws : Nat
  /-- MODEL: what the outside world will do, first thing first (30_encoding.md R98). Log 1. -/
  script : List HostStmt
  /-- MODEL: what the host's reads returned, newest first (00_scope.md R16). Log 14. -/
  reads : List BusRead
  /-- MODEL: a lower bound on the microseconds spent in paced samples (70_reset_and_hazards.md R266). Log 5. -/
  pacedUs : Nat
deriving DecidableEq, Repr

/-- Why a step stops. Only `engineStep` raises these, and only in states that no run from reset reaches: the block has
no traps, and every illegal host action is a refusal that is a NEXT state (60_exceptions.md R221). -/
inductive Fault where
  /-- Raised by `engineStep` where the sequencer's registers are in a combination for which the rules give no step: a
  probe index above `PROBE_W`, a probe evaluated while the search is over, a capture index with no cell. Safe. Log 11. -/
  | offSequence
  /-- Raised by `engineStep` where a sample would be quantized with `SCALE_MV = 0` (40_sampling.md R110: not defined
  there). Safe. Log 12. -/
  | quantizerUnconfigured
deriving DecidableEq, Repr

/-- Why an instruction has no meaning. -/
inductive Refusal where
  /-- Raised by `exec` for an instruction not modelled yet; no arm does. Safe. -/
  | notModelled (mnemonic : String)
deriving DecidableEq, Repr

/-- What a step answers. -/
abbrev Outcome := Host.Outcome State Fault Refusal

/-- The state after reset (10_state.md R48), the reset input being released (70_reset_and_hazards.md R250). The scratch registers `OPC`, `N`, `IDX`, `I`, `J`, `PB`, `PA`, `T0` have no
reset value in the spec: DESIGN CHOICE, log 9. The model's own fields start empty: DESIGN CHOICE, logs 1 to 6 and 14. -/
def State.reset : State where
  scaleMv := 0
  atten := 0
  intervalUs := 0
  trigUv := 0
  probeW := 1
  busy := false
  done := false
  tstate := .armedBelow
  ie := false
  err := 0
  attempts := 0
  trigLevel := 0
  maxcyc := Config.triggerVariant
  buf := []
  ph := .idle
  opc := .capt
  n := 0
  idx := 0
  i := 0
  j := 0
  pb := false
  pa := false
  t0 := 0
  resetAsserted := false
  adc := ⟨[], 0⟩
  now := ⟨[], 0⟩
  turns := ⟨[], 0⟩
  unspecDraws := 0
  script := []
  reads := []
  pacedUs := 0

end Sys2Proof.Machine
end

