-- ==== Sys2Proof/Machine/Ops.lean ====
section
/-! DEFINITION. The named operations over the buffer and the registers: refusal (the block's only exception) and its acknowledgement, acceptance and `finish`, the oracles, the cells. -/

namespace Sys2Proof.Machine

/-! ### The buffer's cells -/

/-- What a cell that is not listed reads as: the reset and `CLR` value (10_state.md R36, 43_buffer.md R183). -/
def Memory.blank : Byte := 0x00#8

/-- The byte at an offset of the register space, in the buffer window. -/
def Memory.read : Memory → Nat → Byte
  | [], _ => Memory.blank
  | (k, b) :: rest, a => if k = a then b else Memory.read rest a

/-- Store a byte, keeping the canonical form. -/
def Memory.write : Memory → Nat → Byte → Memory
  | [], a, v => if v = Memory.blank then [] else [(a, v)]
  | (k, b) :: rest, a, v =>
    if a < k then (if v = Memory.blank then (k, b) :: rest else (a, v) :: (k, b) :: rest)
    else if a = k then (if v = Memory.blank then rest else (a, v) :: rest)
    else (k, b) :: Memory.write rest a v

/-- Drop the cell at `lo` and move every later cell down by one offset (43_buffer.md R180). -/
def Memory.shiftDown (lo : Nat) : Memory → Memory
  | [] => []
  | (k, b) :: rest =>
    if k ≤ lo then Memory.shiftDown lo rest else (k - 1, b) :: Memory.shiftDown lo rest

/-- Cells at offsets `lo` to `hi - 1`, strictly rising, none holding the blank byte. -/
def Memory.wfFrom (hi : Nat) : Nat → Memory → Bool
  | _, [] => true
  | lo, (k, b) :: rest =>
    decide (lo ≤ k) && decide (k < hi) && decide (b ≠ Memory.blank) && Memory.wfFrom hi (k + 1) rest

/-- Offset of `BUF[0]` (20_memory.md R61). -/
def bufBase : Nat := 0x80

/-- One past the offset of `BUF[127]` (20_memory.md R61). -/
def bufEnd : Nat := 0x100

/-- The canonical form of the buffer: 128 cells at 0x80 to 0xFF (10_state.md R37). -/
def Memory.wf (m : Memory) : Bool := Memory.wfFrom bufEnd bufBase m

/-- Offset of `BUF[k]` (10_state.md R36). -/
def cellOffset (k : Nat) : Nat := bufBase + k

/-- `BUF[k]` (00_scope.md R12). -/
def State.cell (s : State) (k : Nat) : Byte := Memory.read s.buf (cellOffset k)

/-- `BUF[k] <- v` (10_state.md R36: one cell at an index). -/
def State.setCell (k : Nat) (v : Byte) (s : State) : State :=
  { s with buf := Memory.write s.buf (cellOffset k) v }

/-- Shift all cells down and append `v` at index 127 (10_state.md R36, 43_buffer.md R180). -/
def State.shiftAppend (v : Byte) (s : State) : State :=
  { s with buf := Memory.write (Memory.shiftDown bufBase s.buf) (cellOffset 127) v }

/-- Zero all cells (10_state.md R36, 43_buffer.md R183). -/
def State.clearBuf (s : State) : State := { s with buf := [] }

/-! ### Refusal and acknowledgement -/

/-- The index of a cause in `ERR`, its code (60_exceptions.md R222). -/
def ErrBit.code : ErrBit → Nat
  | .op => 0
  | .arg => 1
  | .cfg => 2
  | .bsy => 3
  | .addr => 4

/-- The bit of `ERR` that a cause sets (10_state.md R31). -/
def ErrBit.bit (e : ErrBit) : BitVec 5 := 1#5 <<< e.code

/-- `raise X`: set the one bit, change nothing else (60_exceptions.md R221). This is the block's whole exception entry:
nothing is saved, masked or transferred (R232). -/
def State.raise (e : ErrBit) (s : State) : State := { s with err := s.err ||| e.bit }

/-- The host clears error bits: `ERR <- ERR AND NOT mask` (10_state.md R31, 60_exceptions.md R233). -/
def State.clearErr (mask : BitVec 5) (s : State) : State := { s with err := s.err &&& ~~~mask }

/-- The host acknowledges completion: `DONE <- 0` (10_state.md R29, 60_exceptions.md R233). -/
def State.ackDone (s : State) : State := { s with done := false }

/-! ### Acceptance and completion -/

/-- The part of acceptance that every command shares, with the phase it starts in (10_state.md R45). -/
def State.accept (c : Command) (p : Phase) (s : State) : State :=
  { s with opc := c, busy := true, done := false, ph := p }

/-- `finish`, the last engine step of every command (10_state.md R44). -/
def State.finish (s : State) : State := { s with ph := .idle, busy := false, done := true }

/-- What the asserted reset input does: every field of the block takes its reset value, `MAXCYC` being a constant of the
block; the environment, the input's own level and what was observed stay (70_reset_and_hazards.md R250). Log 15. -/
def State.resetBlock (s : State) : State :=
  { State.reset with
    maxcyc := s.maxcyc, resetAsserted := s.resetAsserted, adc := s.adc, now := s.now, turns := s.turns, unspecDraws := s.unspecDraws,
    script := s.script, reads := s.reads, pacedUs := s.pacedUs }

/-- While the reset input is asserted the state is that of reset, whatever an access just did
(70_reset_and_hazards.md R250). Log 15. -/
def State.holdReset (s : State) : State := if s.resetAsserted then s.resetBlock else s

/-- The reset input goes to a level. While it is asserted and at the moment it is released the state is that of reset; a
release of an input that is not asserted is no event (70_reset_and_hazards.md R250). -/
def State.driveReset (level : Bool) (s : State) : State :=
  { (if level || s.resetAsserted then s.resetBlock else s) with resetAsserted := level }

/-- The same outcome, its next state seen through `f`. -/
def mapNext (f : State → State) : Outcome → Outcome
  | .next s => .next (f s)
  | .fault r => .fault r
  | .refused r => .refused r

/-! ### The oracles -/

/-- The next answer of an oracle; past the lined up ones, the free value of the draw's number. -/
def Draws.value {α : Type} (free : Nat → α) (d : Draws α) : α :=
  match d.pending with
  | [] => free d.drawn
  | v :: _ => v

/-- The oracle after `k` draws. -/
def Draws.skip {α : Type} (k : Nat) (d : Draws α) : Draws α := ⟨d.pending.drop k, d.drawn + k⟩

/-- `AdcRead()`'s answer number `k` from now, counted from 0 (40_sampling.md R114). -/
def State.reading (k : Nat) (s : State) : Word := (s.adc.skip k).value Config.freeReading

/-- `Now()`'s answer number `k` from now, counted from 0 (40_sampling.md R116). -/
def State.timeStamp (k : Nat) (s : State) : Word := (s.now.skip k).value Config.freeTime

/-- One answer of the analog channel is used up (40_sampling.md R114). -/
def State.afterReading (s : State) : State := { s with adc := s.adc.skip 1 }

/-- Turn number `k` of a sequence that leaves neither agent out for ever: the round it belongs to, and how many turns of
the host come before the engine's turn that ends the round (70_reset_and_hazards.md R264: weak fairness). -/
def fairRound : Nat → Nat × Nat
  | 0 => (0, Config.freePatience 0)
  | k + 1 =>
    match fairRound k with
    | (r, 0) => (r + 1, Config.freePatience (r + 1))
    | (r, m + 1) => (r, m)

/-- Whose turn number `k` is where no list has fixed it. Every order in which the engine moves again and again is such a
sequence, and no other. Log 2. -/
def fairTurn (k : Nat) : Agent := if (fairRound k).2 = 0 then .engine else .host

/-- Who moves next, where both can (20_memory.md R71). -/
def State.turn (s : State) : Agent := s.turns.value fairTurn

/-- One turn is used up. -/
def State.afterTurn (s : State) : State := { s with turns := s.turns.skip 1 }

/-- The UNSPECIFIED value of this read (00_scope.md R12: drawn at each occurrence). -/
def State.unspecifiedWord (s : State) : Word := Config.unspecified s.unspecDraws

/-- One UNSPECIFIED value is used up. -/
def State.afterUnspecified (s : State) : State := { s with unspecDraws := s.unspecDraws + 1 }

/-! ### The host's statements and reads -/

/-- The outside world's next statement is being performed: the list moves on. -/
def State.popStmt (s : State) : State := { s with script := s.script.tail }

/-- The host observes the value of a read (00_scope.md R16). -/
def State.record (r : BusRead) (s : State) : State := { s with reads := r :: s.reads }

end Sys2Proof.Machine
end

