-- ==== Sys2Proof/Machine/Flags.lean ====
section
/-! DEFINITION. The flags: the `STATUS` word, the encoding of the trigger state, the `irq` line, the probe's AND accumulators. -/

namespace Sys2Proof.Machine

/-- The encoding of the trigger state in `STATUS[3:2]` (10_state.md R41). -/
def TState.code : TState → BitVec 2
  | .armedBelow => 0
  | .armedAbove => 1
  | .fired => 2
  | .gaveUp => 3

/-- `STATUS` with the given bits in `TSTATE`'s place; bits 31:4 read as 0 (10_state.md R29). -/
def statusWord (ts : BitVec 2) (done busy : Bool) : Word :=
  (ts.setWidth 32 <<< 2) ||| ((BitVec.ofBool done).setWidth 32 <<< 1) ||| (BitVec.ofBool busy).setWidth 32

/-- The `irq` output: a level (10_state.md R30, 60_exceptions.md R230). -/
def State.irq (s : State) : Bool := s.done && s.ie

/-- The level output to the analog channel (10_state.md R23, 40_sampling.md R115). -/
def State.attenOutput (s : State) : Byte := s.atten

/-- A sample is strictly below the level, compared as integers (42_trigger.md R150, R154). -/
def sampleBelow (b : Byte) (level : Word) : Bool := decide ((b.toNat : Int) < level.toInt)

/-- A sample is at or above the level, compared as integers (42_trigger.md R150, R154). -/
def sampleAbove (b : Byte) (level : Word) : Bool := decide (level.toInt ≤ (b.toNat : Int))

/-- Fold one probe sample into `PB` and `PA` and count it (42_trigger.md R154). -/
def State.foldProbe (b : Byte) (s : State) : State :=
  { s with pb := s.pb && sampleBelow b s.trigLevel, pa := s.pa && sampleAbove b s.trigLevel, j := s.j + 1 }

/-- A new probe: `J <- 0; PB <- 1; PA <- 1` (42_trigger.md R153). -/
def State.startProbe (s : State) : State := { s with j := 0, pb := true, pa := true, ph := .trigProbe }

/-- `ATTEMPTS <- ATTEMPTS + 1` (42_trigger.md R155). -/
def State.countAttempt (s : State) : State := { s with attempts := s.attempts + 1 }

/-- `STATUS.TSTATE <- t` (42_trigger.md R157). -/
def State.setTState (t : TState) (s : State) : State := { s with tstate := t }

end Sys2Proof.Machine
end

