-- ==== Sys2Proof/Machine/Operands.lean ====
section
/-! DEFINITION. The operand forms: the commands' operand ranges, the checks at issue, the register map, the legal values of the writable registers, the access check. -/

namespace Sys2Proof.Machine

/-! ### Command operands -/

/-- `0 <= n <= 128`, the range of `CAPT` and `ACQ` (30_encoding.md R92, R93 step 5). -/
def countInRange (n : Byte) : Bool := decide (n.toNat ≤ 128)

/-- `0 <= i <= 127`, the range of `PUT` (30_encoding.md R92, R93 step 6). -/
def indexInRange (i : Byte) : Bool := decide (i.toNat ≤ 127)

/-- The checks of a `CMD` write that the decoder does not make, in the order of 30_encoding.md R93 (steps 1, 5 and 6, 7,
8). `inRange`: the operand is in range. `sampling`: the command takes samples and so needs a scale. -/
def State.issue (inRange sampling : Bool) (acceptance : State → State) (s : State) : State :=
  if s.busy then s.raise .bsy
  else if !inRange then s.raise .arg
  else if sampling && s.scaleMv == 0 then s.raise .cfg
  else acceptance s

/-! ### The register map -/

/-- The registers of 10_state.md R21. -/
inductive Reg where
  | cmd
  | status
  | ctrl
  | err
  | scaleMv
  | atten
  | intervalUs
  | trigUv
  | probeW
  | attempts
  | trigLevel
  | maxcyc
deriving DecidableEq, Repr

/-- A register's offset (10_state.md R21). -/
def Reg.offset : Reg → Byte
  | .cmd => 0x00#8
  | .status => 0x04#8
  | .ctrl => 0x08#8
  | .err => 0x0C#8
  | .scaleMv => 0x10#8
  | .atten => 0x14#8
  | .intervalUs => 0x18#8
  | .trigUv => 0x1C#8
  | .probeW => 0x20#8
  | .attempts => 0x24#8
  | .trigLevel => 0x28#8
  | .maxcyc => 0x2C#8

/-- The register at an offset (10_state.md R21). -/
def regAt (offset : Byte) : Option Reg :=
  if offset = 0x00#8 then some .cmd
  else if offset = 0x04#8 then some .status
  else if offset = 0x08#8 then some .ctrl
  else if offset = 0x0C#8 then some .err
  else if offset = 0x10#8 then some .scaleMv
  else if offset = 0x14#8 then some .atten
  else if offset = 0x18#8 then some .intervalUs
  else if offset = 0x1C#8 then some .trigUv
  else if offset = 0x20#8 then some .probeW
  else if offset = 0x24#8 then some .attempts
  else if offset = 0x28#8 then some .trigLevel
  else if offset = 0x2C#8 then some .maxcyc
  else none

/-! ### Legal written values -/

/-- `SCALE_MV`: 1 to 65535, bits 31:16 zero (10_state.md R22). -/
def scaleLegal (v : Word) : Bool := decide (1 ≤ v.toNat ∧ v.toNat ≤ 65535)

/-- `ATTEN`: bits 31:8 zero (10_state.md R23). -/
def attenLegal (v : Word) : Bool := decide (v.toNat ≤ 255)

/-- `PROBE_W`: 1 to 128, bits 31:8 zero (10_state.md R26). -/
def probeLegal (v : Word) : Bool := decide (1 ≤ v.toNat ∧ v.toNat ≤ 128)

/-- `CTRL`: bits 31:1 zero (10_state.md R30). -/
def ctrlLegal (v : Word) : Bool := decide (v.toNat ≤ 1)

/-! ### The access check -/

/-- Bytes of an access (20_memory.md R62). -/
def Width.bytes : Width → Nat
  | .one => 1
  | .two => 2
  | .four => 4

/-- The offset of an access. -/
def Access.offset : Access → Byte
  | .read o _ => o
  | .write o _ _ => o

/-- The width of an access. -/
def Access.width : Access → Width
  | .read _ w => w
  | .write _ w _ => w

/-- The access is a write. -/
def Access.isWrite : Access → Bool
  | .read _ _ => false
  | .write _ _ _ => true

/-- An access error, clause by clause (20_memory.md R68 (a) to (g)). -/
def Access.isError (a : Access) : Bool :=
  let o := a.offset.toNat
  let w := a.width.bytes
  decide (w = 2)
  || decide (0x30 ≤ o ∧ o ≤ 0x7F)
  || decide (o ≤ 0x2F ∧ (w ≠ 4 ∨ o % 4 ≠ 0))
  || (!a.isWrite && decide (o = 0x00))
  || (a.isWrite && decide (o = 0x24 ∨ o = 0x28 ∨ o = 0x2C ∨ 0x80 ≤ o))
  || (!a.isWrite && decide (0x80 ≤ o ∧ w = 4 ∧ o % 4 ≠ 0))
  || decide (0x100 < o + w)

end Sys2Proof.Machine
end

