-- ==== Sys2Proof/Machine/Sampling.lean ====
section
/-! DEFINITION. Quantization, the two sample primitives, and pacing (40_sampling.md). -/

namespace Sys2Proof.Machine

/-- `QuantRaw(uv, mv) = trunc((uv * 16) / (mv * 1000))`, rounding toward zero (40_sampling.md R110, R111). -/
def quantRaw (uv mv : Int) : Int := (uv * Config.pxPerVdiv).tdiv (mv * 1000)

/-- `clamp(v, 0, 255)` (00_scope.md R11). -/
def clampByte (v : Int) : Byte := if v < 0 then 0#8 else if v > 255 then 255#8 else BitVec.ofInt 8 v

/-- `Quant(uv, mv)`, the Sample (40_sampling.md R112). -/
def quant (uv mv : Int) : Byte := clampByte (quantRaw uv mv)

/-- The Sample that a raw reading gives under the present scale (40_sampling.md R117, R118). -/
def State.quantize (s : State) (raw : Word) : Byte := quant raw.toInt s.scaleMv.toNat

/-- The trigger level of the present configuration: the formula, not clamped (42_trigger.md R151). -/
def State.levelNow (s : State) : Word := BitVec.ofInt 32 (quantRaw s.trigUv.toInt s.scaleMv.toNat)

/-- `VoltsFrom(s, mv) = s * mv / 16000`, exact; the host's inverse, which the block does not compute
(40_sampling.md R121). -/
def voltsFrom (sample : Byte) (mv : Nat) : Rat := (sample.toNat * mv : Nat) / (16000 : Rat)

/-- The wait after a paced sample: `if e >= INTERVAL_US then 0 else INTERVAL_US - e` (40_sampling.md R118, R119). -/
def pacingDelay (interval elapsed : Word) : Word := if interval ≤ elapsed then 0 else interval - elapsed

/-- `Sample1()`: the byte, and the state with one reading used up (40_sampling.md R117). -/
def sample1 (s : State) : Byte × State := (s.quantize (s.reading 0), s.afterReading)

/-- The state after the paced path of `PacedSample()`: `T0`, one reading and two time stamps used up, and the time that
is known to have passed: the measured elapsed time and the wait (40_sampling.md R118). -/
def State.afterPacing (s : State) : State :=
  let start := s.timeStamp 0
  let elapsed := s.timeStamp 1 - start
  { s with
    t0 := start, adc := s.adc.skip 1, now := s.now.skip 2,
    pacedUs := s.pacedUs + (elapsed.toNat + (pacingDelay s.intervalUs elapsed).toNat) }

/-- `PacedSample()` (40_sampling.md R118). -/
def pacedSample (s : State) : Byte × State :=
  if s.intervalUs = 0 then sample1 s else (s.quantize (s.reading 0), s.afterPacing)

/-- Take a sample and go on with it. A sample is never quantized with `SCALE_MV = 0` (40_sampling.md R110,
30_encoding.md R93 step 7): a state that would do so stops. -/
def withSample (primitive : State → Byte × State) (s : State) (next : Byte → State → State) : Outcome :=
  if s.scaleMv = 0 then .fault .quantizerUnconfigured
  else .next (next (primitive s).1 (primitive s).2)

end Sys2Proof.Machine
end

