-- ==== Sys2Proof/Machine/Acquisition.lean ====
section
/-! DEFINITION. `CAPT` and `PUT`: their issue and their engine steps (41_acquisition.md). -/

namespace Sys2Proof.Machine

/-- Acceptance of `CAPT n` (10_state.md R45, 41_acquisition.md R130). -/
def acceptCapt (n : Byte) (s : State) : State := { s.accept .capt .captLoop with n := n, i := 0 }

/-- `CAPT n` written to `CMD` (41_acquisition.md R130, 30_encoding.md R93). -/
def execCapt (n : Byte) (s : State) : Outcome := .next (s.issue (countInRange n) true (acceptCapt n))

/-- Acceptance of `PUT i` (10_state.md R45, 41_acquisition.md R133). -/
def acceptPut (i : Byte) (s : State) : State := { s.accept .put .putOne with idx := i.setWidth 7 }

/-- `PUT i` written to `CMD` (41_acquisition.md R133, 30_encoding.md R93). -/
def execPut (i : Byte) (s : State) : Outcome := .next (s.issue (indexInRange i) true (acceptPut i))

/-- Store one captured sample: `BUF[I] <- s; I <- I + 1` (41_acquisition.md R131). -/
def storeCaptured (b : Byte) (s : State) : State := { s.setCell s.i.toNat b with i := s.i + 1 }

/-- The engine step in phase `CAPT_LOOP` (41_acquisition.md R131). An index with no cell, which no run reaches
(20_memory.md R77), has no step. -/
def captLoopStep (s : State) : Outcome :=
  if s.i < s.n then
    if s.i.toNat < 128 then withSample pacedSample s storeCaptured else .fault .offSequence
  else .next s.finish

/-- The engine step in phase `PUT_ONE`: the store, with `finish` (41_acquisition.md R133, R134). -/
def putOneStep (s : State) : Outcome :=
  withSample sample1 s fun b t => (t.setCell t.idx.toNat b).finish

end Sys2Proof.Machine
end

