-- ==== Sys2Proof/Machine/Buffer.lean ====
section
/-! DEFINITION. `ROLL` and `CLR`: their issue and their engine steps (43_buffer.md). -/

namespace Sys2Proof.Machine

/-- `ROLL` written to `CMD` (43_buffer.md R180, 30_encoding.md R93). -/
def execRoll (s : State) : Outcome := .next (s.issue true true (State.accept .roll .rollOne))

/-- `CLR` written to `CMD`: it takes no sample and needs no scale (43_buffer.md R183, 30_encoding.md R93). -/
def execClr (s : State) : Outcome := .next (s.issue true false (State.accept .clr .clrAll))

/-- The engine step in phase `ROLL_ONE`: shift and append as one step, with `finish` (43_buffer.md R180, R181). -/
def rollOneStep (s : State) : Outcome :=
  withSample sample1 s fun b t => (t.shiftAppend b).finish

/-- The engine step in phase `CLR_ALL`: 128 writes as one step, with `finish` (43_buffer.md R183). -/
def clrAllStep (s : State) : Outcome := .next s.clearBuf.finish

end Sys2Proof.Machine
end

