-- ==== Sys2Proof/Machine/Trigger.lean ====
section
/-! DEFINITION. `TRIG` and `ACQ`: their issue and the engine steps of the search (42_trigger.md). -/

namespace Sys2Proof.Machine

/-- `search_init` (42_trigger.md R152). -/
def State.searchInit (s : State) : State :=
  { s with trigLevel := s.levelNow, tstate := .armedBelow, attempts := 0 }

/-- Acceptance of `TRIG` (10_state.md R45, 42_trigger.md R150). -/
def acceptTrig (s : State) : State := (s.accept .trig .trigCheck).searchInit

/-- `TRIG` written to `CMD` (42_trigger.md R150, 30_encoding.md R93). -/
def execTrig (s : State) : Outcome := .next (s.issue true true acceptTrig)

/-- Acceptance of `ACQ n` (10_state.md R45, 42_trigger.md R160). -/
def acceptAcq (n : Byte) (s : State) : State := { (s.accept .acq .trigCheck).searchInit with n := n }

/-- `ACQ n` written to `CMD` (42_trigger.md R160, 30_encoding.md R93). -/
def execAcq (n : Byte) (s : State) : Outcome := .next (s.issue (countInRange n) true (acceptAcq n))

/-- `after_search`, the tail of the step that ends a search (42_trigger.md R156). -/
def State.afterSearch (s : State) : State :=
  if s.opc = .acq then { s with i := 0, ph := .captLoop } else s.finish

/-- The engine step in phase `TRIG_CHECK`: the budget is tested before each probe (42_trigger.md R153). -/
def trigCheckStep (s : State) : Outcome :=
  if s.attempts.toNat = s.maxcyc.cycles then .next (s.setTState .gaveUp).afterSearch
  else .next s.startProbe

/-- Count the attempt and evaluate the complete probe (42_trigger.md R155). "`TSTATE` is never `Fired` or `GaveUp` in
this phase": such a state has no step. -/
def evaluateProbe (s : State) : Outcome :=
  match s.tstate with
  | .armedBelow =>
    .next { s.countAttempt.setTState (if s.pb then .armedAbove else .armedBelow) with ph := .trigCheck }
  | .armedAbove =>
    if s.pa then .next (s.countAttempt.setTState .fired).afterSearch
    else .next { s.countAttempt with ph := .trigCheck }
  | .fired => .fault .offSequence
  | .gaveUp => .fault .offSequence

/-- The engine step in phase `TRIG_PROBE` (42_trigger.md R154, R155). The rules give steps for `J < PROBE_W` and
`J = PROBE_W` only. -/
def trigProbeStep (s : State) : Outcome :=
  if s.j < s.probeW then withSample pacedSample s State.foldProbe
  else if s.j = s.probeW then evaluateProbe s
  else .fault .offSequence

end Sys2Proof.Machine
end

