-- ==== Sys2Proof/Machine/Dispatch.lean ====
section
/-! DEFINITION. The meaning of each command as it is written to `CMD`: the checks at issue and the acceptance step (10_state.md R45, 30_encoding.md R93). The engine's steps that carry it out are in Engine.lean. -/

namespace Sys2Proof.Machine

def exec (i : Instr) (s : State) : Host.Outcome State Fault Refusal :=
  match i with
  | .capt n => Sys2Proof.Machine.execCapt n s
  | .put k => Sys2Proof.Machine.execPut k s
  | .roll => Sys2Proof.Machine.execRoll s
  | .trig => Sys2Proof.Machine.execTrig s
  | .acq n => Sys2Proof.Machine.execAcq n s
  | .clr => Sys2Proof.Machine.execClr s

end Sys2Proof.Machine
end

