-- ==== Sys2Proof/Machine/Bus.lean ====
section
/-! DEFINITION. The host's accesses to the register space (20_memory.md), and the host's step: the outside world's next statement. -/

namespace Sys2Proof.Machine

/-! ### Reads -/

/-- The value of a register as it stands, zero-extended (20_memory.md R63). `CMD` holds nothing. -/
def State.regValue (s : State) : Reg → Word
  | .cmd => 0
  | .status => statusWord s.tstate.code s.done s.busy
  | .ctrl => (BitVec.ofBool s.ie).setWidth 32
  | .err => s.err.setWidth 32
  | .scaleMv => s.scaleMv.setWidth 32
  | .atten => s.atten.setWidth 32
  | .intervalUs => s.intervalUs
  | .trigUv => s.trigUv
  | .probeW => s.probeW.setWidth 32
  | .attempts => s.attempts.setWidth 32
  | .trigLevel => s.trigLevel
  | .maxcyc => BitVec.ofNat 32 s.maxcyc.cycles

/-- The value of a register read while busy when an UNSPECIFIED value is part of it (10_state.md R29, R32, R33): the
bits the rules leave open come from `u`, the rest are exact. -/
def State.regValueBusy (s : State) (u : Word) : Reg → Option Word
  | .status => some (statusWord (u.extractLsb' 0 2) s.done s.busy)
  | .attempts => some ((u.extractLsb' 0 9).setWidth 32)
  | .trigLevel => some u
  | .cmd => none
  | .ctrl => none
  | .err => none
  | .scaleMv => none
  | .atten => none
  | .intervalUs => none
  | .trigUv => none
  | .probeW => none
  | .maxcyc => none

/-- A register read (20_memory.md R63, R74). -/
def readReg (r : Reg) (s : State) : Word × State :=
  if s.busy then
    match s.regValueBusy s.unspecifiedWord r with
    | some v => (v, s.afterUnspecified)
    | none => (s.regValue r, s)
  else (s.regValue r, s)

/-- The little-endian word of four cells, the lowest index in bits 7:0 (20_memory.md R67). -/
def State.cellWord (s : State) (k : Nat) : Word :=
  s.cell (k + 3) ++ s.cell (k + 2) ++ s.cell (k + 1) ++ s.cell k

/-- A buffer read of one or four cells (20_memory.md R66, R67). -/
def readBuf (k : Nat) (w : Width) (s : State) : Word × State :=
  match w with
  | .four => if s.busy then (s.unspecifiedWord, s.afterUnspecified) else (s.cellWord k, s)
  | .one =>
    if s.busy then ((s.unspecifiedWord.extractLsb' 0 8).setWidth 32, s.afterUnspecified)
    else ((s.cell k).setWidth 32, s)
  | .two => (0, s)

/-- The value of a legal read (20_memory.md R63, R66, R67). -/
def readValue (offset : Byte) (w : Width) (s : State) : Word × State :=
  match regAt offset with
  | some r => readReg r s
  | none => readBuf (offset.toNat - bufBase) w s

/-! ### Writes -/

/-- A write of `CMD` (10_state.md R28, 30_encoding.md R93): busy first, then the decoder, then the command's checks. -/
def writeCmd (w : Word) (s : State) : Outcome :=
  if s.busy then .next (s.raise .bsy)
  else
    match decode w with
    | .error _ => .next (s.raise .op)
    | .ok i => exec i s

/-- A write of a configuration register (10_state.md R27). -/
def State.writeConfig (legal : Bool) (store : State → State) (s : State) : State :=
  if s.busy then s.raise .bsy else if !legal then s.raise .cfg else store s

/-- A write of `STATUS`: bit 1 acknowledges, all else is ignored (10_state.md R29). -/
def writeStatus (v : Word) (s : State) : State := if v.getLsbD 1 then s.ackDone else s

/-- A write of `CTRL`, allowed while busy (10_state.md R30). -/
def writeCtrl (v : Word) (s : State) : State :=
  if ctrlLegal v then { s with ie := v.getLsbD 0 } else s.raise .cfg

/-- A legal access's write (20_memory.md R64). The last three registers are read only and never written here. -/
def writeReg (r : Reg) (v : Word) (s : State) : Outcome :=
  match r with
  | .cmd => writeCmd v s
  | .status => .next (writeStatus v s)
  | .ctrl => .next (writeCtrl v s)
  | .err => .next (s.clearErr (v.extractLsb' 0 5))
  | .scaleMv => .next (s.writeConfig (scaleLegal v) fun t => { t with scaleMv := v.setWidth 16 })
  | .atten => .next (s.writeConfig (attenLegal v) fun t => { t with atten := v.setWidth 8 })
  | .intervalUs => .next (s.writeConfig true fun t => { t with intervalUs := v })
  | .trigUv => .next (s.writeConfig true fun t => { t with trigUv := v })
  | .probeW => .next (s.writeConfig (probeLegal v) fun t => { t with probeW := v.setWidth 8 })
  | .attempts => .next s
  | .trigLevel => .next s
  | .maxcyc => .next s

/-! ### Accesses and the host's step -/

/-- One bus access, checked first (20_memory.md R62, R68). -/
def performAccess (a : Access) (s : State) : Outcome :=
  if a.isError then
    match a with
    | .read o w => .next ((s.raise .addr).record ⟨o, w, 0⟩)
    | .write _ _ _ => .next (s.raise .addr)
  else
    match a with
    | .read o w => .next ((readValue o w s).2.record ⟨o, w, (readValue o w s).1⟩)
    | .write o _ v =>
      match regAt o with
      | some r => writeReg r v s
      | none => .next s

/-- One poll of `WAIT`: `RD STATUS`; the statement is over when the value read has bit 0 clear (30_encoding.md R98). -/
def waitStep (s : State) : State :=
  let v := (readReg .status s).1
  let t := (readReg .status s).2.record ⟨Reg.offset .status, .four, v⟩
  if v.getLsbD 0 then t else t.popStmt

/-- The outside world's step: its next statement; with none left, nothing happens (70_reset_and_hazards.md R265). While
the reset input is asserted an access answers what the reset state answers and leaves nothing behind (R250, log 15). -/
def hostStep (s : State) : Outcome :=
  match s.script with
  | [] => .next s
  | .access a :: _ => mapNext State.holdReset (performAccess a s.popStmt)
  | .wait :: _ => .next (waitStep s).holdReset
  | .resetInput level :: _ => .next (s.popStmt.driveReset level)

/-- Who moves, and the state as that agent finds it. An idle engine has no step and an empty script no statement; where
both can move, the next turn says who does (10_state.md R40, 20_memory.md R71). -/
def nextMover (s : State) : Agent × State :=
  if s.ph = .idle then (.host, s)
  else if s.script = [] then (.engine, s)
  else (s.turn, s.afterTurn)

/-- The next thing the outside world does is a write of `w` to `CMD`, and it happens now, with the reset input released
(20_memory.md R75: a command is delivered, not fetched). Log 19. -/
def State.deliver (w : Word) (s : State) : State :=
  let cmdWrite : HostStmt := .access (.write (Reg.offset .cmd) .four w)
  if s.ph = .idle then { s with script := cmdWrite :: s.script, resetAsserted := false }
  else
    { s with
      resetAsserted := false
      script := cmdWrite :: s.script
      turns := ⟨.host :: s.turns.pending, s.turns.drawn⟩ }

end Sys2Proof.Machine
end

