-- ==== Sys2Proof/Machine/Engine.lean ====
section
/-! DEFINITION. The engine's step relation (10_state.md R38, R40), runs of it, and a whole command: issue, then the engine's steps to `finish`. -/

namespace Sys2Proof.Machine

/-- The one engine step enabled in each phase; none when idle (10_state.md R38, R40). -/
def engineStep (s : State) : Outcome :=
  match s.ph with
  | .idle => .next s
  | .trigCheck => trigCheckStep s
  | .trigProbe => trigProbeStep s
  | .captLoop => captLoopStep s
  | .putOne => putOneStep s
  | .rollOne => rollOneStep s
  | .clrAll => clrAllStep s

/-- At most `k` engine steps, with no host step between, ending when the engine is idle. -/
def engineRun : Nat → State → Outcome
  | 0, s => .next s
  | k + 1, s =>
    if s.ph = .idle then .next s
    else
      match engineStep s with
      | .next t => engineRun k t
      | .fault r => .fault r
      | .refused r => .refused r

/-- The most engine steps a command takes from its acceptance (70_reset_and_hazards.md R264), by its configuration and
operand: the search's `MAX_TRIGGER_CYCLES * (PROBE_W + 2) + 1`, and the capture's `n + 1`. -/
def stepBound (i : Instr) (s : State) : Nat :=
  match i with
  | .capt n => n.toNat + 1
  | .put _ => 1
  | .roll => 1
  | .trig => s.maxcyc.cycles * (s.probeW.toNat + 2) + 1
  | .acq n => s.maxcyc.cycles * (s.probeW.toNat + 2) + 1 + (n.toNat + 1)
  | .clr => 1

/-- A whole command with no host step inside: the issue, then the engine's steps (10_state.md R46). -/
def runCommand (i : Instr) (s : State) : Outcome :=
  match exec i s with
  | .next t => engineRun (stepBound i s) t
  | .fault r => .fault r
  | .refused r => .refused r

/-- Whole commands one after the other, each issued when the one before has finished: `C1 ; WAIT ; C2 ; WAIT ...`
(30_encoding.md R98). -/
def runCommands : List Instr → State → Outcome
  | [], s => .next s
  | i :: rest, s =>
    match runCommand i s with
    | .next t => runCommands rest t
    | .fault r => .fault r
    | .refused r => .refused r

end Sys2Proof.Machine
end

