-- ==== Sys2Proof/Machine/Step.lean ====
section
/-! DEFINITION. The step of the machine: one step of the host or one step of the engine, in one total order (20_memory.md R71). -/

namespace Sys2Proof.Machine

/-- One step of whichever agent moves. -/
def step (s : State) : Host.Outcome State Fault Refusal :=
  match nextMover s with
  | (.host, t) => hostStep t
  | (.engine, t) => engineStep t

/-- `s` with the host about to write the command word `w` (bits at and above `nbits` zero) to `CMD`, as its very next
step. Log 1. -/
def State.withFetchWord (s : State) (nbits w : Nat) : State :=
  s.deliver (BitVec.ofNat 32 (w % 2 ^ nbits))

end Sys2Proof.Machine
end

