-- ==== Sys2Proof/Machine/HostScript.lean ====
section
/-! DEFINITION. The textual host statements and the pseudo-instructions of 30_encoding.md R97 to R99, as lists of host statements. -/

namespace Sys2Proof.Machine.HostScript

/-- A command's mnemonic: `MemWrite(0x00, 4, (ARG << 8) | OPC)` (30_encoding.md R97). -/
def cmd (i : Instr) : HostStmt := .access (.write (Reg.offset .cmd) .four (encode i))

/-- `WR reg, v` (30_encoding.md R98). -/
def wr (r : Reg) (v : Word) : HostStmt := .access (.write r.offset .four v)

/-- `RD reg` (30_encoding.md R98). -/
def rd (r : Reg) : HostStmt := .access (.read r.offset .four)

/-- `RDB i` (30_encoding.md R98). DESIGN CHOICE, log 20: R98 gives `i` no bound and R62 no offset above 0xFF; for
`i` above 127 the offset `0x80 + i` is taken modulo 256. -/
def rdb (k : Nat) : HostStmt := .access (.read (BitVec.ofNat 8 (cellOffset k)) .one)

/-- `RDW i` (30_encoding.md R98). DESIGN CHOICE, log 20: for `i` above 127 the offset is taken modulo 256, as for
`RDB`. -/
def rdw (k : Nat) : HostStmt := .access (.read (BitVec.ofNat 8 (cellOffset k)) .four)

/-- `ACK` (30_encoding.md R98). -/
def ack : HostStmt := wr .status 0x2#32

/-- `ERRCLR` (30_encoding.md R98). -/
def errclr : HostStmt := wr .err 0x1F#32

/-- `CONFIG mv, at, us, trig, pw` (30_encoding.md R99). -/
def config (mv att us trigger pw : Word) : List HostStmt :=
  [wr .scaleMv mv, wr .atten att, wr .intervalUs us, wr .trigUv trigger, wr .probeW pw]

/-- `BLOCKING` (30_encoding.md R99). -/
def blocking : List HostStmt := [cmd (.acq 128#8), .wait]

/-- `CHUNK k` (30_encoding.md R99). -/
def chunk (k : Byte) : List HostStmt := [cmd (.put k), .wait]

/-- `ROLLTICK` (30_encoding.md R99). -/
def rollTick : List HostStmt := [cmd .roll, .wait]

/-- `SEARCH` (30_encoding.md R99). -/
def search : List HostStmt := [cmd .trig, .wait, rd .status, rd .attempts]

/-- `RESCALE_ROLLING mv, at` (30_encoding.md R99). -/
def rescaleRolling (mv att : Word) : List HostStmt := [wr .scaleMv mv, wr .atten att, cmd .clr, .wait]

/-- `DUMP`: `RDW 0` to `RDW 124`, 32 reads (30_encoding.md R99). -/
def dump : List HostStmt := (List.range 32).map fun k => rdw (4 * k)

end Sys2Proof.Machine.HostScript
end

