-- ==== Sys2Proof/Machine/Scheduler.lean ====
section
/-! DEFINITION. The host's own rules that are pure functions (44_host_sequences.md): mode selection, the three cycles as statement lists, index bounds, the display throttle. They are about the host, not the block: no step of the machine reads them (00_scope.md R5). -/

namespace Sys2Proof.Machine.Scheduler

/-- Unit of a timebase label (44_host_sequences.md R190). -/
inductive LabelUnit where
  | ms
  | s
deriving DecidableEq, Repr

/-- A TimebaseSetting (44_host_sequences.md R190). -/
structure TimebaseSetting where
  intervalMicroseconds : Word
  labelValue : Nat
  labelUnit : LabelUnit
deriving DecidableEq, Repr

/-- A ScaleSetting (44_host_sequences.md R190). -/
structure ScaleSetting where
  attenuation : Byte
  millivoltsPerDivision : BitVec 16
deriving DecidableEq, Repr

/-- The three acquisition modes (44_host_sequences.md R191). -/
inductive Mode where
  | rolling
  | asyncChunked
  | blocking
deriving DecidableEq, Repr

/-- The label in milliseconds (44_host_sequences.md R191). -/
def labelMs (t : TimebaseSetting) : Nat :=
  match t.labelUnit with
  | .ms => t.labelValue
  | .s => t.labelValue * 1000

/-- Mode selection, the rolling test first (44_host_sequences.md R191). -/
def selectMode (t : TimebaseSetting) : Mode :=
  if t.intervalMicroseconds = 0 ∧ Config.rollingThresholdMs ≤ labelMs t then .rolling
  else if Config.asyncThresholdMs ≤ labelMs t then .asyncChunked
  else .blocking

/-- The roll tick period in milliseconds, `label_ms / PX_PER_HDIV` (44_host_sequences.md R197). -/
def rollTickPeriodMs (t : TimebaseSetting) : Rat := (labelMs t : Rat) / (Config.pxPerHdiv : Rat)

/-- The host writes the selected scale (44_host_sequences.md R194). -/
def writeScale (c : ScaleSetting) : List HostStmt :=
  [HostScript.wr .scaleMv (c.millivoltsPerDivision.setWidth 32), HostScript.wr .atten (c.attenuation.setWidth 32)]

/-- The host writes the selected interval (44_host_sequences.md R194). -/
def writeTimebase (t : TimebaseSetting) : List HostStmt := [HostScript.wr .intervalUs t.intervalMicroseconds]

/-- The host writes the trigger voltage, already an integer number of microvolts (44_host_sequences.md R194). -/
def writeTrigger (microvolts : Word) : List HostStmt := [HostScript.wr .trigUv microvolts]

/-- What the host reads after a capture: all cells and `STATUS` (44_host_sequences.md R202). -/
def render : List HostStmt := HostScript.dump ++ [HostScript.rd .status]

/-- One Blocking cycle (44_host_sequences.md R195). -/
def blockingCycle : List HostStmt := HostScript.blocking ++ render

/-- One AsyncChunked cycle: `PUT 0` to `PUT 127`, one a tick; whether a search comes first is the open host parameter
`AsyncUsesTrigger` (44_host_sequences.md R195, R196). -/
def asyncCycle (usesTrigger : Bool) : List HostStmt :=
  (if usesTrigger then [HostScript.cmd .trig, .wait] else [])
    ++ (List.range 128).flatMap (fun k => HostScript.chunk (BitVec.ofNat 8 k)) ++ render

/-- A scale change: wait, write, and clear if rolling (44_host_sequences.md R199). -/
def changeScale (mode : Mode) (c : ScaleSetting) : List HostStmt :=
  .wait :: writeScale c ++ (if mode = .rolling then [HostScript.cmd .clr, .wait] else [])

/-- A timebase change: wait and write; the new mode is `selectMode` of the new setting (44_host_sequences.md R199). -/
def changeTimebase (t : TimebaseSetting) : List HostStmt := .wait :: writeTimebase t

/-- After deactivation a pending callback does nothing (44_host_sequences.md R200). -/
def guardQuit (quit : Bool) (callback : List HostStmt) : List HostStmt := if quit then [] else callback

/-- An index adjustment that would leave the table is a no-op (44_host_sequences.md R201). -/
def adjustIndex (tableLength index : Nat) (change : Int) : Nat :=
  let moved : Int := index + change
  if 0 ≤ moved ∧ moved < tableLength then moved.toNat else index

/-- One roll tick of the display throttle: the new counter and whether a redraw is scheduled
(44_host_sequences.md R197). -/
def throttleTick (resetValue : Nat) (counter : Int) : Int × Bool :=
  if counter - 1 < 0 then (resetValue, true) else (counter - 1, false)

end Sys2Proof.Machine.Scheduler
end

