-- ==== Sys2Proof/Safety.lean ====
section
/-! DEFINITION. What claims are stated in: the invariant of the machine, what the host can see of an idle block, a clean run, and the trigger search as the source's contract describes it. -/

namespace Sys2Proof.Machine

/-- The phases of a search (10_state.md R38). -/
def Phase.searching (p : Phase) : Prop := p = .trigCheck ∨ p = .trigProbe

/-- While the reset input is asserted the state is that of reset (70_reset_and_hazards.md R250). -/
abbrev State.ResetHeld (s : State) : Prop := s.resetAsserted = true → s.resetBlock = s

/-- The invariant of the machine: what holds at reset and after every step. -/
structure State.Inv (s : State) : Prop where
  /-- `PH = IDLE` if and only if `STATUS.BUSY = 0` (10_state.md R38). -/
  busyIff : s.busy = true ↔ s.ph ≠ .idle
  /-- `DONE` is clear while a command runs (10_state.md R29). -/
  doneIdle : s.done = true → s.busy = false
  /-- The buffer keeps its canonical form: 128 cells (10_state.md R37). -/
  bufWf : Memory.wf s.buf = true
  /-- A command that samples runs only with a scale (30_encoding.md R93). -/
  configured : s.ph ≠ .idle → s.ph ≠ .clrAll → s.scaleMv ≠ 0
  /-- `PROBE_W` cannot hold an illegal value (10_state.md R26). -/
  probeRange : 1 ≤ s.probeW.toNat ∧ s.probeW.toNat ≤ 128
  /-- `0 <= ATTEMPTS <= MAX_TRIGGER_CYCLES` (10_state.md R32). -/
  attemptsLe : s.attempts.toNat ≤ s.maxcyc.cycles
  /-- A capture stays inside the buffer (20_memory.md R77). -/
  captRange : s.ph = .captLoop → s.i.toNat ≤ s.n.toNat ∧ s.n.toNat ≤ 128
  /-- A search belongs to `TRIG` or to an `ACQ` with a legal count (10_state.md R45). -/
  searchOwner : s.ph.searching → s.opc = .trig ∨ (s.opc = .acq ∧ s.n.toNat ≤ 128)
  /-- `TSTATE` is never `Fired` or `GaveUp` during a search (42_trigger.md R155). -/
  searchArmed : s.ph.searching → s.tstate = .armedBelow ∨ s.tstate = .armedAbove
  /-- A probe reads at most `PROBE_W` samples, within the budget (42_trigger.md R153, R154). -/
  probeIndex : s.ph = .trigProbe → s.j.toNat ≤ s.probeW.toNat ∧ s.attempts.toNat < s.maxcyc.cycles
  /-- `PB` and `PA` are not both 1 once a probe has a sample (42_trigger.md R154). -/
  probeExclusive : s.ph = .trigProbe → s.j ≠ 0 → ¬(s.pb = true ∧ s.pa = true)
  /-- The level is constant over the search (42_trigger.md R151). -/
  levelLatched : s.ph.searching → s.trigLevel = s.levelNow
  /-- `ArmedAbove` occurs only inside a search, after at least one probe (10_state.md R41). -/
  armedAboveSearching : s.tstate = .armedAbove → s.ph.searching ∧ 1 ≤ s.attempts.toNat
  /-- Outside a search `ArmedBelow` means that no search has run (70_reset_and_hazards.md R254, R263). -/
  armedBelowFresh : s.tstate = .armedBelow → ¬s.ph.searching → s.attempts = 0
  /-- `Fired` takes at least two attempts (42_trigger.md R158 (c)). -/
  firedAttempts : s.tstate = .fired → 2 ≤ s.attempts.toNat
  /-- `GaveUp` uses the whole budget (42_trigger.md R158 (b)). -/
  gaveUpAttempts : s.tstate = .gaveUp → s.attempts.toNat = s.maxcyc.cycles
  /-- While the reset input is asserted the state is that of reset (70_reset_and_hazards.md R250). -/
  resetHeld : s.ResetHeld

/-- A run is clean when no action was refused: `ERR = 0` (60_exceptions.md R229). -/
def State.Clean (s : State) : Prop := s.err = 0

/-- All that an idle block shows the host: the readable registers, the cells, the interrupt line
(00_scope.md R16, 20_memory.md R74). -/
structure HostView where
  registers : List Word
  cells : List Byte
  irq : Bool
deriving DecidableEq, Repr

/-- The host's view of an idle block. -/
def State.hostView (s : State) : HostView where
  registers :=
    [Reg.status, .ctrl, .err, .scaleMv, .atten, .intervalUs, .trigUv, .probeW, .attempts, .trigLevel, .maxcyc].map
      s.regValue
  cells := (List.range 128).map s.cell
  irq := s.irq

/-- The sample that the `k`-th reading from now gives under the present scale (40_sampling.md R117). -/
def State.sampleAt (s : State) (k : Nat) : Byte := s.quantize (s.reading k)

/-- Every sample of the probe of width `w` that starts at number `start` is strictly below the level
(42_trigger.md R150: the AND over the whole probe). -/
def probeBelow (q : Nat → Byte) (level : Int) (w start : Nat) : Bool :=
  (List.range w).all fun k => decide (((q (start + k)).toNat : Int) < level)

/-- Every sample of the probe is at or above the level (42_trigger.md R150). -/
def probeAbove (q : Nat → Byte) (level : Int) (w start : Nat) : Bool :=
  (List.range w).all fun k => decide (level ≤ ((q (start + k)).toNat : Int))

/-- The search as the whole-command pseudocode of 42_trigger.md R150 has it, on a stream of samples: with so many
attempts left of the budget, armed or not yet, after so many attempts. It answers the final trigger state and the number
of attempts. -/
def searchResult (q : Nat → Byte) (level : Int) (w : Nat) : Nat → Bool → Nat → TState × Nat
  | 0, _, done => (.gaveUp, done)
  | left + 1, false, done => searchResult q level w left (probeBelow q level w (done * w)) (done + 1)
  | left + 1, true, done =>
    if probeAbove q level w (done * w) then (.fired, done + 1) else searchResult q level w left true (done + 1)

/-- The state with every sequencer register that its phase does not use set to its reset value: what is left is what
the rules can read (10_state.md R39: "Values of these registers are meaningful only in the phases that use them"). -/
def State.forgetScratch (s : State) : State :=
  match s.ph with
  | .idle => { s with opc := .capt, n := 0, idx := 0, i := 0, j := 0, pb := false, pa := false, t0 := 0 }
  | .trigCheck =>
    { s with n := if s.opc = .acq then s.n else 0, idx := 0, i := 0, j := 0, pb := false, pa := false, t0 := 0 }
  | .trigProbe => { s with n := if s.opc = .acq then s.n else 0, idx := 0, i := 0, t0 := 0 }
  | .captLoop => { s with opc := .capt, idx := 0, j := 0, pb := false, pa := false, t0 := 0 }
  | .putOne => { s with opc := .capt, n := 0, i := 0, j := 0, pb := false, pa := false, t0 := 0 }
  | .rollOne => { s with opc := .capt, n := 0, idx := 0, i := 0, j := 0, pb := false, pa := false, t0 := 0 }
  | .clrAll => { s with opc := .capt, n := 0, idx := 0, i := 0, j := 0, pb := false, pa := false, t0 := 0 }

/-- The next step is the one in which the reset input is asserted (70_reset_and_hazards.md R250): that statement is next,
and the outside world moves. -/
abbrev State.assertsReset (s : State) : Prop :=
  (nextMover s).1 = .host ∧ s.script.head? = some (.resetInput true)

/-- At most so many steps of the machine, host's and engine's in their order. -/
def stepRun : Nat → State → Outcome
  | 0, s => .next s
  | k + 1, s =>
    match step s with
    | .next t => stepRun k t
    | .fault r => .fault r
    | .refused r => .refused r

end Sys2Proof.Machine
end

