-- ==== Sys2Proof/WellFormed.lean ====
section
/-! DEFINITION. The operand ranges of the commands (30_encoding.md R92): which terms are legal commands. -/

namespace Sys2Proof

/-- The operand is in the range of 30_encoding.md R92. A term outside it is refused with `ERR.ARG` (R95). -/
def Instr.wellFormed : Instr → Bool
  | .capt n => decide (n.toNat ≤ 128)
  | .put i => decide (i.toNat ≤ 127)
  | .roll => true
  | .trig => true
  | .acq n => decide (n.toNat ≤ 128)
  | .clr => true

end Sys2Proof
end

