-- ==== Sys2Proof/Certificates/Slice0/Obligations.lean ====
section
/-! DEFINITION. The statements for the provers. Each docstring names the rules of spec/ it rests on; "in part" where the rule says more than the statement. -/

open Sys2Proof Sys2Proof.Machine

/-! ## Encoding -/

/-- 30_encoding.md R97 and R100, in part: a few words written out. -/
def Obligations.OpcodeMapWords : Prop :=
  decode 0x00008001#32 = .ok (.capt 128) ∧ decode 0x00008101#32 = .ok (.capt 129) ∧
  decode 0x00007F02#32 = .ok (.put 127) ∧ decode 0x00000003#32 = .ok .roll ∧
  decode 0x00000004#32 = .ok .trig ∧ decode 0x00008005#32 = .ok (.acq 128) ∧
  decode 0x00000006#32 = .ok .clr ∧ decode 0x00010001#32 = .error .zeroFieldSet ∧
  decode 0x00000000#32 = .error .unknownOpcode ∧ decode 0x00000007#32 = .error .unknownOpcode ∧
  decode 0x00000103#32 = .error .operandNotAllowed

/-- Decode and encode agree, for every command and every operand the `ARG` field admits (30_encoding.md R90 to R92,
R97). -/
def Obligations.DecodeEncodeAgree : Prop :=
  ∀ i : Instr, decode (encode i) = .ok i

/-- Each word that decodes is the word of the command it decodes to: no bit of a word is ignored (30_encoding.md R93,
R96). -/
def Obligations.DecodedWordIsEncoding : Prop :=
  ∀ (w : Word) (i : Instr), decode w = .ok i → encode i = w

/-- The mask and match columns of 30_encoding.md R92 select the command, and `ARG` is used as it stands (R91). -/
def Obligations.MaskMatchSelectsCommand : Prop :=
  ∀ (w : Word) (i : Instr),
    decode w = .ok i ↔ (w &&& i.mask = i.pattern ∧ argField w = i.operand)

/-- "Out of the 2^32 words, 129 + 128 + 1 + 1 + 129 + 1 = 389 are legal" (30_encoding.md R94, in part). -/
def Obligations.LegalWordsAre389 : Prop :=
  ∃ words : List Word, words.length = 389 ∧ words.Nodup ∧
    ∀ w, w ∈ words ↔ ∃ i, decode w = .ok i ∧ i.wellFormed = true

/-! ## Issue and acceptance -/

/-- 30_encoding.md R93: the verdict on every word written to `CMD`, in the order of its steps 1 to 8. A refusal sets one
bit of `ERR` and changes nothing else. -/
def Obligations.CommandVerdictOrder : Prop :=
  ∀ (w : Word) (s : State),
    let opc := (w.extractLsb' 0 8).toNat
    let arg := (w.extractLsb' 8 8).toNat
    let upper := (w.extractLsb' 16 16).toNat
    let verdict := performAccess (.write 0x00#8 .four w) s
    if s.busy = true then verdict = .next { s with err := s.err ||| 0b01000#5 }
    else if upper ≠ 0 then verdict = .next { s with err := s.err ||| 0b00001#5 }
    else if ¬(1 ≤ opc ∧ opc ≤ 6) then verdict = .next { s with err := s.err ||| 0b00001#5 }
    else if (opc = 3 ∨ opc = 4 ∨ opc = 6) ∧ arg ≠ 0 then verdict = .next { s with err := s.err ||| 0b00001#5 }
    else if (opc = 1 ∨ opc = 5) ∧ 128 < arg then verdict = .next { s with err := s.err ||| 0b00010#5 }
    else if opc = 2 ∧ 127 < arg then verdict = .next { s with err := s.err ||| 0b00010#5 }
    else if opc ≤ 5 ∧ s.scaleMv = 0 then verdict = .next { s with err := s.err ||| 0b00100#5 }
    else ∃ i t, decode w = .ok i ∧ i.opcode.toNat = opc ∧ i.operand.toNat = arg ∧ exec i s = .next t ∧
      verdict = .next t ∧ t.busy = true ∧ t.done = false ∧ t.err = s.err

/-- 10_state.md R45: acceptance of each of the six commands as one atomic step, with everything it writes and nothing
else, `search_init` included; a refused `CMD` write changes only `ERR`; no command stops a command in progress. -/
def Obligations.AcceptanceWritesExactly : Prop :=
  (∀ s : State, s.busy = false → s.scaleMv ≠ 0 →
    let level := BitVec.ofInt 32 ((s.trigUv.toInt * 16).tdiv ((s.scaleMv.toNat : Int) * 1000))
    (∀ n : Byte, n.toNat ≤ 128 → exec (.capt n) s = .next
      { s with opc := .capt, busy := true, done := false, n := n, i := 0, ph := .captLoop }) ∧
    (∀ k : Byte, k.toNat ≤ 127 → exec (.put k) s = .next
      { s with opc := .put, busy := true, done := false, idx := BitVec.ofNat 7 k.toNat, ph := .putOne }) ∧
    exec .roll s = .next { s with opc := .roll, busy := true, done := false, ph := .rollOne } ∧
    exec .trig s = .next
      { s with
        opc := .trig, busy := true, done := false, ph := .trigCheck, trigLevel := level, tstate := .armedBelow,
        attempts := 0 } ∧
    (∀ n : Byte, n.toNat ≤ 128 → exec (.acq n) s = .next
      { s with
        opc := .acq, busy := true, done := false, ph := .trigCheck, trigLevel := level, tstate := .armedBelow,
        attempts := 0, n := n })) ∧
  (∀ s : State, s.busy = false → exec .clr s = .next
    { s with opc := .clr, busy := true, done := false, ph := .clrAll }) ∧
  (∀ (w : Word) (s : State), ∃ t, performAccess (.write 0x00#8 .four w) s = .next t ∧
    ((s.busy = false ∧ t.busy = true ∧ t.err = s.err) ∨ t = { s with err := t.err }) ∧
    (s.busy = true → t = { s with err := t.err }))

/-! ## The commands, from issue to `finish` -/

/-- `CAPT n` completes (41_acquisition.md R130, R131, R136; 70_reset_and_hazards.md R264, R266): `n` steps, each one cell
in order, then `finish`. Cells 0 to n-1 hold the quantized readings in order; every other byte, and every register the
statement does not list, is as before; `n` readings and, on the paced path, `2n` time stamps are used; the busy time is at
least `n * INTERVAL_US`. That all the readings are the next ones and that the time is a lower bound kept in `pacedUs` is the
model's form (log 3, log 5). -/
def Obligations.CaptFillsCellsInOrder : Prop :=
  ∀ (n : Byte) (s : State), s.busy = false → s.scaleMv ≠ 0 → Memory.wf s.buf = true → n.toNat ≤ 128 →
    ∃ t u, exec (.capt n) s = .next t ∧ engineRun (n.toNat + 1) t = .next u ∧
      (∀ k ≤ n.toNat, ∃ v, engineRun k t = .next v ∧ v.ph = .captLoop ∧ v.busy = true) ∧
      (∀ k < n.toNat, u.cell k = s.sampleAt k) ∧
      (∀ a, ¬(cellOffset 0 ≤ a ∧ a < cellOffset n.toNat) → Memory.read u.buf a = Memory.read s.buf a) ∧
      u.adc = s.adc.skip n.toNat ∧
      u.now = s.now.skip (if s.intervalUs = 0 then 0 else 2 * n.toNat) ∧
      s.pacedUs + n.toNat * s.intervalUs.toNat ≤ u.pacedUs ∧
      u = { s with
        buf := u.buf, busy := false, done := true, ph := .idle, opc := .capt, n := n, i := n, t0 := u.t0,
        adc := u.adc, now := u.now, pacedUs := u.pacedUs }

/-- `PUT i` completes (41_acquisition.md R134, R133 in part): cell `i` holds the quantized reading, every other byte and every
register not listed is as before, one reading and no time stamp is used. That store and `finish` are one step is the
model's choice among those R134 allows (log 8). -/
def Obligations.PutStoresOneCell : Prop :=
  ∀ (k : Byte) (s : State), s.busy = false → s.scaleMv ≠ 0 → Memory.wf s.buf = true → k.toNat ≤ 127 →
    ∃ t u, exec (.put k) s = .next t ∧ engineRun 1 t = .next u ∧
      u.cell k.toNat = s.sampleAt 0 ∧
      (∀ a, a ≠ cellOffset k.toNat → Memory.read u.buf a = Memory.read s.buf a) ∧
      u = { s with
        buf := u.buf, busy := false, done := true, ph := .idle, opc := .put, idx := BitVec.ofNat 7 k.toNat,
        adc := s.adc.skip 1 }

/-- `ROLL` completes (43_buffer.md R181, R180 in part): every cell takes its successor's value and cell 127 the quantized
reading; nothing outside the buffer and no register not listed changes. That the append and `finish` are one step is the
model's choice among those R181 allows (log 8). -/
def Obligations.RollShiftsAndAppends : Prop :=
  ∀ s : State, s.busy = false → s.scaleMv ≠ 0 → Memory.wf s.buf = true →
    ∃ t u, exec .roll s = .next t ∧ engineRun 1 t = .next u ∧
      (∀ k < 127, u.cell k = s.cell (k + 1)) ∧ u.cell 127 = s.sampleAt 0 ∧
      (∀ a, ¬(cellOffset 0 ≤ a ∧ a ≤ cellOffset 127) → Memory.read u.buf a = Memory.read s.buf a) ∧
      u = { s with
        buf := u.buf, busy := false, done := true, ph := .idle, opc := .roll, adc := s.adc.skip 1 }

/-- `CLR` completes, with or without a scale (43_buffer.md R183, R184): every cell is zero, no reading is used, no
register not listed changes. One step with `finish`, as R264 counts it, is the model's choice (log 8). -/
def Obligations.ClrZeroesAllCells : Prop :=
  ∀ s : State, s.busy = false → Memory.wf s.buf = true →
    ∃ t u, exec .clr s = .next t ∧ engineRun 1 t = .next u ∧
      (∀ k < 128, u.cell k = 0x00#8) ∧
      (∀ a, ¬(cellOffset 0 ≤ a ∧ a ≤ cellOffset 127) → Memory.read u.buf a = Memory.read s.buf a) ∧
      u = { s with buf := u.buf, busy := false, done := true, ph := .idle, opc := .clr }

/-- `TRIG` completes and is the search of the source's contract (42_trigger.md R150 to R156, 70_reset_and_hazards.md
R264): its trigger state and attempt count are those of the pseudocode's search on the samples in order, within the step
bound, with `ATTEMPTS * PROBE_W` readings used. All of memory and every register not listed is as before. The time lower
bound in `pacedUs` is the model's (log 5). -/
def Obligations.TrigIsTheSearch : Prop :=
  ∀ s : State, s.busy = false → s.scaleMv ≠ 0 →
    ∃ t u, exec .trig s = .next t ∧
      engineRun (s.maxcyc.cycles * (s.probeW.toNat + 2) + 1) t = .next u ∧
      u.trigLevel.toInt = (s.trigUv.toInt * 16).tdiv ((s.scaleMv.toNat : Int) * 1000) ∧
      (u.tstate, u.attempts.toNat) =
        searchResult s.sampleAt u.trigLevel.toInt s.probeW.toNat s.maxcyc.cycles false 0 ∧
      u.adc = s.adc.skip (u.attempts.toNat * s.probeW.toNat) ∧
      s.pacedUs + u.attempts.toNat * s.probeW.toNat * s.intervalUs.toNat ≤ u.pacedUs ∧
      u = { s with
        busy := false, done := true, ph := .idle, opc := .trig, tstate := u.tstate, attempts := u.attempts,
        trigLevel := u.trigLevel, j := u.j, pb := u.pb, pa := u.pa, t0 := u.t0, adc := u.adc, now := u.now,
        pacedUs := u.pacedUs }

/-- `ACQ n` completes (42_trigger.md R160): the search, then, fired or given up, the capture of the readings that follow.
Cells 0 to n-1 change and no other byte; no register not listed changes. -/
def Obligations.AcqSearchesThenCaptures : Prop :=
  ∀ (n : Byte) (s : State), s.busy = false → s.scaleMv ≠ 0 → Memory.wf s.buf = true → n.toNat ≤ 128 →
    ∃ t u, exec (.acq n) s = .next t ∧
      engineRun (s.maxcyc.cycles * (s.probeW.toNat + 2) + 1 + (n.toNat + 1)) t = .next u ∧
      u.trigLevel.toInt = (s.trigUv.toInt * 16).tdiv ((s.scaleMv.toNat : Int) * 1000) ∧
      (u.tstate, u.attempts.toNat) =
        searchResult s.sampleAt u.trigLevel.toInt s.probeW.toNat s.maxcyc.cycles false 0 ∧
      (∀ k < n.toNat, u.cell k = s.sampleAt (u.attempts.toNat * s.probeW.toNat + k)) ∧
      (∀ a, ¬(cellOffset 0 ≤ a ∧ a < cellOffset n.toNat) → Memory.read u.buf a = Memory.read s.buf a) ∧
      u.adc = s.adc.skip (u.attempts.toNat * s.probeW.toNat + n.toNat) ∧
      u = { s with
        buf := u.buf, busy := false, done := true, ph := .idle, opc := .acq, n := n, i := n, tstate := u.tstate,
        attempts := u.attempts, trigLevel := u.trigLevel, j := u.j, pb := u.pb, pa := u.pa, t0 := u.t0,
        adc := u.adc, now := u.now, pacedUs := u.pacedUs }

/-- "`ACQ n` leaves the same state as `TRIG ; WAIT ; CAPT n ; WAIT` given the same oracle answers" (42_trigger.md R161
(d), the spec's derivation): every host-visible register and cell, and the oracles. -/
def Obligations.AcqEqualsTrigThenCapt : Prop :=
  ∀ (n : Byte) (s : State), s.busy = false → s.scaleMv ≠ 0 → Memory.wf s.buf = true → n.toNat ≤ 128 →
    ∃ u v, runCommand (.acq n) s = .next u ∧ runCommands [.trig, .capt n] s = .next v ∧
      u.hostView = v.hostView ∧ u.buf = v.buf ∧ u.ph = .idle ∧ v.ph = .idle ∧
      u.adc = v.adc ∧ u.now = v.now ∧ u.pacedUs = v.pacedUs

/-- "`CAPT n` leaves the same state as the sequence `PUT 0 ; WAIT ; ... ; PUT n-1 ; WAIT` given the same oracle answers"
(41_acquisition.md R137, the spec's derivation), for at least one sample: an empty sequence of `PUT`s sets no `DONE`. -/
def Obligations.CaptEqualsPuts : Prop :=
  ∀ (n : Byte) (s : State), s.busy = false → s.scaleMv ≠ 0 → Memory.wf s.buf = true → 1 ≤ n.toNat →
    n.toNat ≤ 128 →
    ∃ u v, runCommand (.capt n) s = .next u ∧
      runCommands ((List.range n.toNat).map fun k => .put (BitVec.ofNat 8 k)) s = .next v ∧
      u.hostView = v.hostView ∧ u.buf = v.buf ∧ u.ph = .idle ∧ v.ph = .idle ∧ u.adc = v.adc

/-- `m` successive `ROLL`s (43_buffer.md R182 (b), the spec's derivation): first in, first out. The last `m` readings,
at most 128 of them, are at the end in order, and what is left of the old buffer is before them. -/
def Obligations.RollsAreFifo : Prop :=
  ∀ (m : Nat) (s : State), s.busy = false → s.scaleMv ≠ 0 → Memory.wf s.buf = true →
    ∃ u, runCommands (List.replicate m .roll) s = .next u ∧ u.adc = s.adc.skip m ∧
      ∀ k < 128, u.cell k = if k + m < 128 then s.cell (k + m) else s.sampleAt (k + m - 128)

/-- `CLR` then `m` `ROLL`s: "the trace enters from the right over a zero baseline" (43_buffer.md R185, the spec's
derivation). -/
def Obligations.ClrThenRollsFromTheRight : Prop :=
  ∀ (m : Nat) (s : State), s.busy = false → s.scaleMv ≠ 0 → Memory.wf s.buf = true → m ≤ 128 →
    ∃ u, runCommands (.clr :: List.replicate m .roll) s = .next u ∧
      (∀ k, k + m ≤ 127 → u.cell k = 0x00#8) ∧
      (∀ j, 1 ≤ j → j ≤ m → u.cell (128 - m + j - 1) = s.sampleAt (j - 1))

/-! ## The engine's steps -/

/-- 41_acquisition.md R131: the step in phase `CAPT_LOOP`, for an index that has a cell. It stores one sample in one cell
and goes on, or it is `finish`; with interval 0 it takes the path with no wait, which reads no time. -/
def Obligations.CaptLoopStoresOrFinishes : Prop :=
  ∀ s : State, s.ph = .captLoop → s.scaleMv ≠ 0 → s.n.toNat ≤ 128 → Memory.wf s.buf = true →
    (s.i < s.n → ∃ t, engineStep s = .next t ∧ t.ph = .captLoop ∧ t.i.toNat = s.i.toNat + 1 ∧
      t.cell s.i.toNat = s.sampleAt 0 ∧
      (∀ a, a ≠ cellOffset s.i.toNat → Memory.read t.buf a = Memory.read s.buf a) ∧
      (s.intervalUs = 0 → t.t0 = s.t0 ∧ t.now = s.now) ∧
      t = { s with
        buf := t.buf, i := t.i, t0 := t.t0, adc := s.adc.skip 1, now := t.now, pacedUs := t.pacedUs }) ∧
    (¬s.i < s.n → engineStep s = .next { s with ph := .idle, busy := false, done := true })

/-- 42_trigger.md R153, R155 and R156, their step rules: the budget test, the evaluation of a complete probe, and the
end of a search. -/
def Obligations.SearchStepsFollowTheRules : Prop :=
  ∀ s : State,
    let ended (u : State) (t : TState) : State :=
      if s.opc = .acq then { u with tstate := t, i := 0, ph := .captLoop }
      else { u with tstate := t, ph := .idle, busy := false, done := true }
    let counted : State := { s with attempts := s.attempts + 1 }
    (s.ph = .trigCheck → s.attempts.toNat = s.maxcyc.cycles → engineStep s = .next (ended s .gaveUp)) ∧
    (s.ph = .trigCheck → s.attempts.toNat ≠ s.maxcyc.cycles →
      engineStep s = .next { s with j := 0, pb := true, pa := true, ph := .trigProbe }) ∧
    (s.ph = .trigProbe → s.j = s.probeW → s.tstate = .armedBelow → s.pb = true →
      engineStep s = .next { counted with tstate := .armedAbove, ph := .trigCheck }) ∧
    (s.ph = .trigProbe → s.j = s.probeW → s.tstate = .armedBelow → s.pb = false →
      engineStep s = .next { counted with ph := .trigCheck }) ∧
    (s.ph = .trigProbe → s.j = s.probeW → s.tstate = .armedAbove → s.pa = true →
      engineStep s = .next (ended counted .fired)) ∧
    (s.ph = .trigProbe → s.j = s.probeW → s.tstate = .armedAbove → s.pa = false →
      engineStep s = .next { counted with ph := .trigCheck })

/-- 42_trigger.md R154: a probe step reads one sample and folds it into `PB` and `PA`; `PROBE_W` of them read the whole
probe, and then `PB` and `PA` are the AND over all its samples, not both 1 for a probe of at least one sample. No register
but the two bits, the index and the pacing's keeps anything of the samples, and no cell does. -/
def Obligations.ProbeIsAllOrNothing : Prop :=
  ∀ s : State, s.ph = .trigProbe → s.scaleMv ≠ 0 →
    (s.j < s.probeW → ∃ t, engineStep s = .next t ∧
      t = { s with
        pb := s.pb && decide (((s.sampleAt 0).toNat : Int) < s.trigLevel.toInt)
        pa := s.pa && decide (s.trigLevel.toInt ≤ ((s.sampleAt 0).toNat : Int))
        j := s.j + 1, t0 := t.t0, adc := s.adc.skip 1, now := t.now, pacedUs := t.pacedUs }) ∧
    (s.j = 0 → s.pb = true → s.pa = true →
      ∃ u, engineRun s.probeW.toNat s = .next u ∧ u.j = s.probeW ∧
        (u.pb = true ↔ ∀ k < s.probeW.toNat, ((s.sampleAt k).toNat : Int) < s.trigLevel.toInt) ∧
        (u.pa = true ↔ ∀ k < s.probeW.toNat, s.trigLevel.toInt ≤ ((s.sampleAt k).toNat : Int)) ∧
        (1 ≤ s.probeW.toNat → ¬(u.pb = true ∧ u.pa = true)) ∧
        u = { s with
          j := u.j, pb := u.pb, pa := u.pa, t0 := u.t0, adc := s.adc.skip s.probeW.toNat, now := u.now,
          pacedUs := u.pacedUs })

/-- 42_trigger.md R157: the transitions of the trigger state with `ATTEMPTS`: each event makes its transition, and no
step makes another one, the one step in which the reset input is asserted apart (R250); exhausting the budget sets no error bit. -/
def Obligations.TriggerTransitionsComplete : Prop :=
  (∀ (i : Instr) (s t : State), (i = .trig ∨ ∃ n, i = .acq n) → exec i s = .next t → s.busy = false →
    t.busy = true → t.tstate = .armedBelow ∧ t.attempts = 0) ∧
  (∀ s t : State, s.Inv → engineStep s = .next t →
    (s.ph = .trigCheck → s.attempts.toNat = s.maxcyc.cycles →
      t.tstate = .gaveUp ∧ t.attempts = s.attempts ∧ t.err = s.err) ∧
    (s.ph = .trigProbe → s.j = s.probeW → t.attempts.toNat = s.attempts.toNat + 1 ∧
      (s.tstate = .armedBelow → t.tstate = if s.pb then .armedAbove else .armedBelow) ∧
      (s.tstate = .armedAbove → t.tstate = if s.pa then .fired else .armedAbove))) ∧
  ∀ s t : State, s.Inv → ¬s.assertsReset → step s = .next t →
    let complete : Prop := s.ph = .trigProbe ∧ s.j = s.probeW ∧ t.attempts.toNat = s.attempts.toNat + 1 ∧ t.err = s.err
    (t.tstate = s.tstate ∧ t.attempts = s.attempts) ∨
    (s.busy = false ∧ t.busy = true ∧ (t.opc = .trig ∨ t.opc = .acq) ∧ t.tstate = .armedBelow ∧ t.attempts = 0) ∨
    (s.ph = .trigCheck ∧ (s.tstate = .armedBelow ∨ s.tstate = .armedAbove) ∧ t.tstate = .gaveUp ∧
      t.attempts = s.attempts ∧ t.attempts.toNat = s.maxcyc.cycles ∧ t.err = s.err) ∨
    (complete ∧ s.tstate = .armedBelow ∧ s.pb = true ∧ t.tstate = .armedAbove) ∨
    (complete ∧ s.tstate = .armedBelow ∧ s.pb = false ∧ t.tstate = .armedBelow) ∨
    (complete ∧ s.tstate = .armedAbove ∧ s.pa = true ∧ t.tstate = .fired) ∨
    (complete ∧ s.tstate = .armedAbove ∧ s.pa = false ∧ t.tstate = .armedAbove)

/-- 42_trigger.md R158 (a), (b), (c), (e), the spec's derivation: what a finished `TRIG` can leave. -/
def Obligations.FinishedSearchOutcome : Prop :=
  ∀ s : State, s.busy = false → s.scaleMv ≠ 0 →
    ∃ u, runCommand .trig s = .next u ∧ u.ph = .idle ∧
      (u.tstate = .fired ∨ u.tstate = .gaveUp) ∧
      (u.tstate = .gaveUp → u.attempts.toNat = s.maxcyc.cycles) ∧
      (u.tstate = .fired → 2 ≤ u.attempts.toNat ∧ u.attempts.toNat ≤ s.maxcyc.cycles) ∧
      u.adc.drawn = s.adc.drawn + u.attempts.toNat * s.probeW.toNat

/-- 42_trigger.md R158 (g) and (h), the spec's derivation: a level of 0 or below and a level of 256 or above cannot be
crossed, whatever the readings. -/
def Obligations.UnreachableLevelGivesUp : Prop :=
  ∀ s : State, s.busy = false → s.scaleMv ≠ 0 → 1 ≤ s.probeW.toNat →
    (s.trigUv.toInt * 16).tdiv ((s.scaleMv.toNat : Int) * 1000) ≤ 0 ∨
      256 ≤ (s.trigUv.toInt * 16).tdiv ((s.scaleMv.toNat : Int) * 1000) →
    ∃ u, runCommand .trig s = .next u ∧ u.tstate = .gaveUp ∧ u.attempts.toNat = s.maxcyc.cycles ∧
      u.adc = s.adc.skip (s.maxcyc.cycles * s.probeW.toNat) ∧ u.err = s.err

/-- 42_trigger.md R158 (j), the spec's derivation: "A constant input never fires", constant over the readings that a whole
search can take. -/
def Obligations.ConstantInputNeverFires : Prop :=
  ∀ s : State, s.busy = false → s.scaleMv ≠ 0 → 1 ≤ s.probeW.toNat →
    (∀ k < s.maxcyc.cycles * s.probeW.toNat, s.sampleAt k = s.sampleAt 0) →
    ∃ u, runCommand .trig s = .next u ∧ u.tstate = .gaveUp ∧ u.attempts.toNat = s.maxcyc.cycles

/-- 42_trigger.md R159 (1): the source's step function. One sample below the level, then one at or above it, with a
one-sample probe: `Fired` in two attempts; and the first captured sample is at or above the level if the input stays
there. -/
def Obligations.StepInputFiresInTwoAttempts : Prop :=
  ∀ (n : Byte) (s : State), s.busy = false → s.scaleMv ≠ 0 → Memory.wf s.buf = true → 1 ≤ n.toNat →
    n.toNat ≤ 128 → s.probeW = 1 →
    let level : Int := (s.trigUv.toInt * 16).tdiv ((s.scaleMv.toNat : Int) * 1000)
    ((s.sampleAt 0).toNat : Int) < level → level ≤ ((s.sampleAt 1).toNat : Int) →
    level ≤ ((s.sampleAt 2).toNat : Int) →
    ∃ u, runCommand (.acq n) s = .next u ∧ u.tstate = .fired ∧ u.attempts = 2 ∧ u.trigLevel.toInt = level ∧
      level ≤ ((u.cell 0).toNat : Int)

/-- Every engine step either stays busy or is `finish`, which writes `PH`, `BUSY` and `DONE` at once (10_state.md R42,
R44). -/
def Obligations.EngineStaysBusyOrFinishes : Prop :=
  ∀ s t : State, s.Inv → s.ph ≠ .idle → engineStep s = .next t →
    (t.ph ≠ .idle ∧ t.busy = true ∧ t.done = false) ∨ (t.ph = .idle ∧ t.busy = false ∧ t.done = true)

/-- What no engine step touches (10_state.md R21, R27, R31, R34, R49): the configuration, `CTRL`, `ERR`, `MAXCYC`, and the
host's side of the model. -/
def Obligations.EngineLeavesHostSideAlone : Prop :=
  ∀ s t : State, engineStep s = .next t →
    t.scaleMv = s.scaleMv ∧ t.atten = s.atten ∧ t.intervalUs = s.intervalUs ∧ t.trigUv = s.trigUv ∧
    t.probeW = s.probeW ∧ t.ie = s.ie ∧ t.err = s.err ∧ t.maxcyc = s.maxcyc ∧ t.resetAsserted = s.resetAsserted ∧
    t.script = s.script ∧ t.reads = s.reads ∧ t.unspecDraws = s.unspecDraws ∧ t.turns = s.turns

/-! ## Quantization and pacing -/

/-- 40_sampling.md R110: the quotient of `uv * 16` by `mv * 1000`, truncated toward zero at every sign, and one division
is 16 pixels. -/
def Obligations.QuantRawTruncatesTowardZero : Prop :=
  ∀ uv mv : Int, 1 ≤ mv → mv ≤ 65535 →
    (0 ≤ uv → 0 ≤ quantRaw uv mv ∧ quantRaw uv mv * (mv * 1000) ≤ uv * 16 ∧
      uv * 16 < (quantRaw uv mv + 1) * (mv * 1000)) ∧
    (uv ≤ 0 → quantRaw uv mv ≤ 0 ∧ uv * 16 ≤ quantRaw uv mv * (mv * 1000) ∧
      (quantRaw uv mv - 1) * (mv * 1000) < uv * 16) ∧
    quantRaw (mv * 1000) mv = 16

/-- 40_sampling.md R112 and R117: a Sample is the quotient saturated to 0 to 255, the one of the next reading under the
present scale; taking it uses up that reading and sets no flag. -/
def Obligations.QuantSaturatesToByte : Prop :=
  (∀ uv mv : Int, 1 ≤ mv → mv ≤ 65535 →
    (quantRaw uv mv < 0 → quant uv mv = 0#8) ∧ (255 < quantRaw uv mv → quant uv mv = 255#8) ∧
    (0 ≤ quantRaw uv mv → quantRaw uv mv ≤ 255 → ((quant uv mv).toNat : Int) = quantRaw uv mv)) ∧
  ∀ s : State, s.scaleMv ≠ 0 →
    sample1 s = (quant (s.reading 0).toInt s.scaleMv.toNat, { s with adc := s.adc.skip 1 })

/-- 40_sampling.md R113, in part: the quotient of any reading fits in 32 bits signed, so `TRIG_LEVEL` holds it exactly,
and both quantizers are monotonic. -/
def Obligations.QuantizerFitsAndIsMonotone : Prop :=
  (∀ (raw : Word) (mv : Int), 1 ≤ mv → mv ≤ 65535 →
    |quantRaw raw.toInt mv| < 34359739 ∧ (BitVec.ofInt 32 (quantRaw raw.toInt mv)).toInt = quantRaw raw.toInt mv) ∧
  (∀ a b mv : Int, 1 ≤ mv → mv ≤ 65535 → a ≤ b →
    quantRaw a mv ≤ quantRaw b mv ∧ (quant a mv).toNat ≤ (quant b mv).toNat)

/-- 40_sampling.md R121, the spec's derivation from the source's property: converting an unsaturated sample back to volts
is within one pixel step of the reading, `(1/16) * scale_mV/1000` volts. -/
def Obligations.VoltsRoundTripWithinOnePixel : Prop :=
  ∀ (uv : Int) (mv : Nat), 1 ≤ mv → mv ≤ 65535 → 0 ≤ uv → quantRaw uv mv ≤ 255 →
    voltsFrom (quant uv mv) mv ≤ (uv : Rat) / 1000000 ∧
    (uv : Rat) / 1000000 - voltsFrom (quant uv mv) mv < (1 / 16 : Rat) * ((mv : Rat) / 1000)

/-- 40_sampling.md R118 and R119, 70_reset_and_hazards.md R267: a paced sample is the unpaced one's value; with interval 0
it is the unpaced one; otherwise the time from its start stamp to the end of its wait is the larger of the measured
elapsed time and the interval, the delay being 0 (never negative) on an overrun, which sets no error bit. The time is kept
in the model's own `pacedUs` (log 5). -/
def Obligations.PacedSampleDelayNeverNegative : Prop :=
  ∀ s : State,
    let elapsed := s.timeStamp 1 - s.timeStamp 0
    let u := (pacedSample s).2
    (pacedSample s).1 = (sample1 s).1 ∧
    (s.intervalUs = 0 → pacedSample s = sample1 s) ∧
    (s.intervalUs ≠ 0 →
      u.t0 = s.timeStamp 0 ∧ u.now = s.now.skip 2 ∧
      u.pacedUs = s.pacedUs + max elapsed.toNat s.intervalUs.toNat ∧
      (s.intervalUs.toNat ≤ elapsed.toNat → pacingDelay s.intervalUs elapsed = 0) ∧
      (elapsed.toNat < s.intervalUs.toNat →
        (pacingDelay s.intervalUs elapsed).toNat = s.intervalUs.toNat - elapsed.toNat)) ∧
    u.adc = s.adc.skip 1 ∧ u.err = s.err ∧ u.buf = s.buf ∧ u.busy = s.busy

/-! ## The bus -/

/-- 20_memory.md R68: each kind of access error, at any time: `ERR.ADDR` is set, a read answers 0, a write is dropped,
nothing else changes. -/
def Obligations.AccessErrorsOnlySetAddr : Prop :=
  ∀ (o : Byte) (w : Width) (v : Word) (s : State),
    let p := o.toNat
    let b := w.bytes
    let readError := .next { s with err := s.err ||| 0b10000#5, reads := ⟨o, w, 0⟩ :: s.reads }
    let writeError := .next { s with err := s.err ||| 0b10000#5 }
    ((b = 2 ∨ (0x30 ≤ p ∧ p ≤ 0x7F) ∨ (p ≤ 0x2F ∧ (b ≠ 4 ∨ p % 4 ≠ 0)) ∨ 0x100 < p + b) →
      performAccess (.read o w) s = readError ∧ performAccess (.write o w v) s = writeError) ∧
    ((p = 0x00 ∨ (0x80 ≤ p ∧ b = 4 ∧ p % 4 ≠ 0)) → performAccess (.read o w) s = readError) ∧
    ((p = 0x24 ∨ p = 0x28 ∨ p = 0x2C ∨ 0x80 ≤ p) → performAccess (.write o w v) s = writeError)

/-- The legal accesses are exactly those of 20_memory.md R63 to R67: eleven registers read and nine written as aligned
words, cells read as bytes or aligned words. -/
def Obligations.LegalAccessesAreExactly : Prop :=
  (∀ (o : Byte) (w : Width), (Access.read o w).isError = false ↔
    (w = .four ∧ o.toNat % 4 = 0 ∧ 0x04 ≤ o.toNat ∧ o.toNat ≤ 0x2C) ∨
    (w = .one ∧ 0x80 ≤ o.toNat) ∨ (w = .four ∧ o.toNat % 4 = 0 ∧ 0x80 ≤ o.toNat)) ∧
  (∀ (o : Byte) (w : Width) (v : Word), (Access.write o w v).isError = false ↔
    w = .four ∧ o.toNat % 4 = 0 ∧ o.toNat ≤ 0x20)

/-- 20_memory.md R63 and R74, in part: what an idle block answers to a word read of each register, reads having no effect
on the block. -/
def Obligations.IdleRegisterReads : Prop :=
  ∀ s : State, s.busy = false →
    let answers (o : Byte) (v : Word) : Prop :=
      performAccess (.read o .four) s = .next { s with reads := ⟨o, .four, v⟩ :: s.reads }
    answers 0x04#8 (BitVec.ofNat 32 ((if s.done then 2 else 0) + 4 * s.tstate.code.toNat)) ∧
    answers 0x08#8 (if s.ie then 1 else 0) ∧
    answers 0x0C#8 (BitVec.ofNat 32 s.err.toNat) ∧
    answers 0x10#8 (BitVec.ofNat 32 s.scaleMv.toNat) ∧
    answers 0x14#8 (BitVec.ofNat 32 s.atten.toNat) ∧
    answers 0x18#8 s.intervalUs ∧
    answers 0x1C#8 s.trigUv ∧
    answers 0x20#8 (BitVec.ofNat 32 s.probeW.toNat) ∧
    answers 0x24#8 (BitVec.ofNat 32 s.attempts.toNat) ∧
    answers 0x28#8 s.trigLevel ∧
    answers 0x2C#8 (BitVec.ofNat 32 s.maxcyc.cycles)

/-- 20_memory.md R74, in part, with 10_state.md R29: while busy the configuration, `CTRL`, `ERR` and `MAXCYC` read
exactly, `STATUS` reads `BUSY` and `DONE` exactly and zero above bit 3, `ATTEMPTS` reads below 512, and no read sets an
error bit or changes the block. -/
def Obligations.BusyRegisterReads : Prop :=
  ∀ s : State, s.busy = true →
    let exactly (o : Byte) (v : Word) : Prop :=
      performAccess (.read o .four) s = .next { s with reads := ⟨o, .four, v⟩ :: s.reads }
    let answersSome (o : Byte) (p : Word → Prop) : Prop :=
      ∃ v, p v ∧ performAccess (.read o .four) s = .next
        { s with reads := ⟨o, .four, v⟩ :: s.reads, unspecDraws := s.unspecDraws + 1 }
    answersSome 0x04#8 (fun v => v.getLsbD 0 = true ∧ v.getLsbD 1 = s.done ∧ v.toNat < 16) ∧
    exactly 0x08#8 (if s.ie then 1 else 0) ∧
    exactly 0x0C#8 (BitVec.ofNat 32 s.err.toNat) ∧
    exactly 0x10#8 (BitVec.ofNat 32 s.scaleMv.toNat) ∧
    exactly 0x14#8 (BitVec.ofNat 32 s.atten.toNat) ∧
    exactly 0x18#8 s.intervalUs ∧
    exactly 0x1C#8 s.trigUv ∧
    exactly 0x20#8 (BitVec.ofNat 32 s.probeW.toNat) ∧
    answersSome 0x24#8 (fun v => v.toNat < 512) ∧
    answersSome 0x28#8 (fun v => v = s.unspecifiedWord) ∧
    exactly 0x2C#8 (BitVec.ofNat 32 s.maxcyc.cycles)

/-- 20_memory.md R66 and R67, in part: a byte read of the buffer answers the cell, a word read four cells with the lowest index in
the lowest bits; while busy both answer an UNSPECIFIED value of their width, with no error bit. The busy value and its counter are the
model's (log 6). -/
def Obligations.BufferReadsLittleEndian : Prop :=
  ∀ (k : Nat) (s : State), k ≤ 127 →
    let o := BitVec.ofNat 8 (0x80 + k)
    (s.busy = false →
      performAccess (.read o .one) s = .next
        { s with reads := ⟨o, .one, BitVec.ofNat 32 (s.cell k).toNat⟩ :: s.reads } ∧
      (k % 4 = 0 → performAccess (.read o .four) s = .next
        { s with
          reads := ⟨o, .four, BitVec.ofNat 32 ((s.cell k).toNat + 256 * (s.cell (k + 1)).toNat
            + 65536 * (s.cell (k + 2)).toNat + 16777216 * (s.cell (k + 3)).toNat)⟩ :: s.reads })) ∧
    (s.busy = true →
      performAccess (.read o .one) s = .next
        { s with
          reads := ⟨o, .one, BitVec.ofNat 32 (s.unspecifiedWord.toNat % 256)⟩ :: s.reads
          unspecDraws := s.unspecDraws + 1 } ∧
      (k % 4 = 0 → performAccess (.read o .four) s = .next
        { s with
          reads := ⟨o, .four, s.unspecifiedWord⟩ :: s.reads
          unspecDraws := s.unspecDraws + 1 }))

/-- 10_state.md R27 with the legal values of R22 to R26: a write of a configuration register is refused with `BSY` while
busy, then with `CFG` for an illegal word, and otherwise stores the low bits; a read answers the register zero-extended at
any time. -/
def Obligations.ConfigurationWriteRule : Prop :=
  ∀ (v : Word) (s : State),
    let rule (o : Byte) (legal : Prop) (stored : State) : Prop :=
      (s.busy = true → performAccess (.write o .four v) s = .next { s with err := s.err ||| 0b01000#5 }) ∧
      (s.busy = false → ¬legal → performAccess (.write o .four v) s = .next { s with err := s.err ||| 0b00100#5 }) ∧
      (s.busy = false → legal → performAccess (.write o .four v) s = .next stored)
    let reads (o : Byte) (value : Word) : Prop :=
      performAccess (.read o .four) s = .next { s with reads := ⟨o, .four, value⟩ :: s.reads }
    rule 0x10#8 (1 ≤ v.toNat ∧ v.toNat ≤ 65535) { s with scaleMv := BitVec.ofNat 16 v.toNat } ∧
    rule 0x14#8 (v.toNat ≤ 255) { s with atten := BitVec.ofNat 8 v.toNat } ∧
    rule 0x18#8 True { s with intervalUs := v } ∧
    rule 0x1C#8 True { s with trigUv := v } ∧
    rule 0x20#8 (1 ≤ v.toNat ∧ v.toNat ≤ 128) { s with probeW := BitVec.ofNat 8 v.toNat } ∧
    reads 0x10#8 (s.scaleMv.setWidth 32) ∧ reads 0x14#8 (s.atten.setWidth 32) ∧ reads 0x18#8 s.intervalUs ∧
    reads 0x1C#8 s.trigUv ∧ reads 0x20#8 (s.probeW.setWidth 32)

/-- 10_state.md R29, R30, R31, the write halves: `CTRL` stores `IE` or refuses reserved bits, `STATUS` acknowledges
`DONE` on bit 1 and ignores the rest, `ERR` clears the bits written as 1; none of them looks at `BUSY`. -/
def Obligations.ControlRegisterWrites : Prop :=
  ∀ (v : Word) (s : State),
    (2 ≤ v.toNat → performAccess (.write 0x08#8 .four v) s = .next { s with err := s.err ||| 0b00100#5 }) ∧
    (v.toNat < 2 → performAccess (.write 0x08#8 .four v) s = .next { s with ie := v.getLsbD 0 }) ∧
    (v.getLsbD 1 = true → performAccess (.write 0x04#8 .four v) s = .next { s with done := false }) ∧
    (v.getLsbD 1 = false → performAccess (.write 0x04#8 .four v) s = .next s) ∧
    (∃ e : BitVec 5, (∀ b < 5, e.getLsbD b = (s.err.getLsbD b && !v.getLsbD b)) ∧
      performAccess (.write 0x0C#8 .four v) s = .next { s with err := e })

/-- 60_exceptions.md R221 and R229: every host access answers a next state; an access is either refused, setting one bit
of `ERR` and nothing else, or performed, setting none. -/
def Obligations.RefusalSetsOneBitOrNone : Prop :=
  ∀ (a : Access) (s : State), ∃ t, performAccess a s = .next t ∧
    ((∃ e : ErrBit, t = { s with err := s.err ||| e.bit, reads := t.reads }) ∨
      (∀ b < 5, t.err.getLsbD b = true → s.err.getLsbD b = true))

/-- The configuration a command sees is constant while it runs (20_memory.md R75, the spec's derivation;
70_reset_and_hazards.md R258): no step of a busy block changes it but the one in which the reset input is asserted. -/
def Obligations.ConfigurationConstantWhileBusy : Prop :=
  ∀ s t : State, s.ResetHeld → s.busy = true → ¬s.assertsReset → step s = .next t →
    t.scaleMv = s.scaleMv ∧ t.atten = s.atten ∧ t.intervalUs = s.intervalUs ∧ t.trigUv = s.trigUv ∧
    t.probeW = s.probeW

/-- "Only the engine writes cells, and only while `STATUS.BUSY = 1`" (10_state.md R37 (c), in part): a step that changes
the buffer starts busy and is the engine's, unless it is the one in which the reset input is asserted. -/
def Obligations.BufferChangesOnlyWhileBusy : Prop :=
  ∀ s t : State, s.Inv → ¬s.assertsReset → step s = .next t → t.buf ≠ s.buf →
    s.busy = true ∧ ∃ d, engineStep { s with turns := d } = .next t

/-- Visibility at completion (20_memory.md R72, the spec's derivation): once the block is idle its results stay until the
next command is accepted (or the reset input asserted). -/
def Obligations.IdleResultsStayUntilNextCommand : Prop :=
  ∀ s t : State, s.Inv → s.busy = false → ¬s.assertsReset → step s = .next t → t.busy = false →
    t.buf = s.buf ∧ t.tstate = s.tstate ∧ t.attempts = s.attempts ∧ t.trigLevel = s.trigLevel

/-- 60_exceptions.md R230: the level of `irq`, when it rises (a command finishes with `IE = 1`, or `IE` is set with
`DONE = 1`), and when it falls (acknowledgement, acceptance, or `IE` cleared), the one step in which the reset input is asserted apart. -/
def Obligations.IrqRisesAndFallsAsStated : Prop :=
  (∀ s : State, s.irq = true ↔ s.done = true ∧ s.ie = true) ∧
  ∀ s t : State, s.Inv → ¬s.assertsReset → step s = .next t →
    (s.irq = false → t.irq = true →
      (s.busy = true ∧ t.busy = false ∧ t.done = true ∧ s.ie = true) ∨
      (s.done = true ∧ s.ie = false ∧ t.ie = true ∧ ∃ v, s.script.head? = some (.access (.write 0x08#8 .four v)))) ∧
    (s.irq = true → t.irq = false →
      (t.done = false ∧ ∃ v : Word, v.getLsbD 1 = true ∧
        s.script.head? = some (.access (.write 0x04#8 .four v))) ∨
      (s.busy = false ∧ t.busy = true ∧ t.done = false) ∨
      (t.ie = false ∧ ∃ v, s.script.head? = some (.access (.write 0x08#8 .four v))))

/-! ## Steps, invariant, termination -/

/-- A step runs the decoded command (20_memory.md R71, R75); that the host's statements and the turns are lists in the
state is the model's choice (log 1, log 2): when the host's next statement is a write of a word
that decodes to `i` and the host moves, the step is `exec i` at the state with that statement (and the turn, where one was
needed) used up; where the reset input is asserted its outcome is held at the reset state (R250, log 15). `withFetchWord`
arranges that write with the input released. -/
def Obligations.StepRunsDeliveredCommand : Prop :=
  (∀ (s : State) (w : Word) (i : Instr) (rest : List HostStmt), decode w = .ok i →
    s.script = .access (.write 0x00#8 .four w) :: rest →
    (s.ph = .idle → s.resetAsserted = false → step s = exec i { s with script := rest }) ∧
    (s.ph ≠ .idle → s.turn = .host → s.resetAsserted = false →
      step s = exec i { s with script := rest, turns := s.turns.skip 1 }) ∧
    (s.ph = .idle → s.resetAsserted = true →
      step s = mapNext State.resetBlock (exec i { s with script := rest }))) ∧
  (∀ (s : State) (nbits w : Nat) (i : Instr), decodeTableWord nbits w = some i →
    (s.ph = .idle → step (s.withFetchWord nbits w) = exec i { s with resetAsserted := false }) ∧
    (s.ph ≠ .idle → step (s.withFetchWord nbits w) =
      exec i { s with resetAsserted := false, turns := ⟨s.turns.pending, s.turns.drawn + 1⟩ }))

/-- Who else moves (10_state.md R40, 20_memory.md R71; 70_reset_and_hazards.md R265), the turns being the model's (log 2): the engine when it is its turn or the
host has nothing to do; nobody when the engine is idle and the host's list is empty. -/
def Obligations.EngineMovesOnItsTurn : Prop :=
  ∀ s : State,
    (s.ph ≠ .idle → s.script = [] → step s = engineStep s) ∧
    (s.ph ≠ .idle → s.script ≠ [] → s.turn = .engine → step s = engineStep { s with turns := s.turns.skip 1 }) ∧
    (s.ph = .idle → s.script = [] → step s = .next s)

/-- `WAIT` (30_encoding.md R98, in part), kept as one statement of the model's list (log 1): each poll reads `STATUS`, and the statement is over exactly when the block is
not busy; nothing else changes but the record of the read and the count of UNSPECIFIED values. While the reset input is
asserted this rests on the invariant's clause that the state is that of reset. -/
def Obligations.WaitEndsWhenNotBusy : Prop :=
  ∀ (s : State) (rest : List HostStmt), s.ResetHeld → s.script = .wait :: rest →
    ∃ t v, hostStep s = .next t ∧ t.reads = ⟨0x04#8, .four, v⟩ :: s.reads ∧ v.getLsbD 0 = s.busy ∧
      (s.busy = true → t.script = s.script) ∧ (s.busy = false → t.script = rest) ∧
      t = { s with reads := t.reads, unspecDraws := t.unspecDraws, script := t.script }

/-- 10_state.md R48, in part, and 70_reset_and_hazards.md R254: the values the spec gives for reset, and what they let the
host see. -/
def Obligations.ResetValues : Prop :=
  let s := State.reset
  s.busy = false ∧ s.done = false ∧ s.tstate = .armedBelow ∧ s.ie = false ∧ s.err = 0 ∧ s.scaleMv = 0 ∧
  s.atten = 0 ∧ s.intervalUs = 0 ∧ s.trigUv = 0 ∧ s.probeW = 1 ∧ s.attempts = 0 ∧ s.trigLevel = 0 ∧
  s.maxcyc = Config.triggerVariant ∧ (∀ k < 128, s.cell k = 0x00#8) ∧ s.ph = .idle ∧ s.irq = false ∧
  s.regValue .status = 0

/-- 70_reset_and_hazards.md R250 with the values of 10_state.md R48, the reset input being two events of the model's list
(log 15). Its assertion, at any time and in any phase, leaves the reset values, abandons the command with no `finish` and
lowers `irq`; at its release the values are those of reset, and releasing an input that is not asserted is no event. While
it is asserted the state is that of reset after every step, the engine has no step, and an access answers what the reset
state answers and leaves nothing behind. `MAXCYC` is a constant. -/
def Obligations.ResetInputAbandonsCommand : Prop :=
  let resetValues (t : State) : Prop :=
    t.busy = false ∧ t.done = false ∧ t.tstate = .armedBelow ∧ t.ie = false ∧ t.err = 0 ∧ t.scaleMv = 0 ∧
    t.atten = 0 ∧ t.intervalUs = 0 ∧ t.trigUv = 0 ∧ t.probeW = 1 ∧ t.attempts = 0 ∧ t.trigLevel = 0 ∧
    (∀ k < 128, t.cell k = 0x00#8) ∧ t.ph = .idle ∧ t.irq = false
  (∀ (s : State) (rest : List HostStmt), s.script = .resetInput true :: rest →
    ∃ t, hostStep s = .next t ∧ resetValues t ∧ t.maxcyc = s.maxcyc ∧ t.resetAsserted = true ∧ t.script = rest) ∧
  (∀ (s : State) (rest : List HostStmt), s.resetAsserted = true → s.script = .resetInput false :: rest →
    ∃ t, hostStep s = .next t ∧ resetValues t ∧ t.maxcyc = s.maxcyc ∧ t.resetAsserted = false ∧ t.script = rest) ∧
  (∀ (s : State) (rest : List HostStmt), s.resetAsserted = false → s.script = .resetInput false :: rest →
    hostStep s = .next { s with script := rest }) ∧
  (∀ s : State, s.ResetHeld → s.resetAsserted = true →
    resetValues s ∧ nextMover s = (.host, s) ∧ (∃ t, step s = .next t ∧ resetValues t ∧ t.maxcyc = s.maxcyc) ∧
    ∀ (a : Access) (rest : List HostStmt), s.script = .access a :: rest →
      ∃ t u, step s = .next t ∧ t = { s with script := rest, reads := t.reads } ∧
        performAccess a s = .next u ∧ t.reads = u.reads)

/-- The invariant holds at reset. -/
def Obligations.InvariantAtReset : Prop := State.reset.Inv

/-- Every step keeps the invariant, from every state that meets it: idle exactly when not busy, `DONE` clear while busy,
the buffer canonical with 128 cells, a scale wherever a sample is taken, `ATTEMPTS` within the budget, capture and probe
indices in range, the trigger state armed exactly during a search, the level constant over it, `Fired` after at least two
attempts, `GaveUp` at the whole budget, the state that of reset while the reset input is asserted (10_state.md R32, R37,
R38, R41; 20_memory.md R77; 42_trigger.md R151, R154, R155, R158; 70_reset_and_hazards.md R250). -/
def Obligations.StepKeepsInvariant : Prop :=
  ∀ s t : State, s.Inv → step s = .next t → t.Inv

/-- From a state that meets the invariant every step answers a next state: the block is never stuck and no host action
stops it (60_exceptions.md R233; 70_reset_and_hazards.md R264: "The block has no state in which the engine is stuck"). -/
def Obligations.InvariantNeverStuck : Prop :=
  ∀ s : State, s.Inv → ∃ t, step s = .next t

/-- The buffer's canonical form alone is kept by every step, from any state that has it. -/
def Obligations.StepKeepsBufferCanonical : Prop :=
  ∀ s t : State, Memory.wf s.buf = true → step s = .next t → Memory.wf t.buf = true

/-- `MAXCYC` "never changes" (10_state.md R34, in part). -/
def Obligations.MaxcycNeverChanges : Prop :=
  ∀ s t : State, step s = .next t → t.maxcyc = s.maxcyc

/-- 70_reset_and_hazards.md R264, the spec's derivation: every accepted command reaches `finish` within the bound of its
kind, and from any busy state of a run the engine's own steps reach `finish` within the longest bound. -/
def Obligations.CommandsFinishWithinBound : Prop :=
  (∀ (i : Instr) (s t : State), s.Inv → exec i s = .next t → s.busy = false → t.busy = true →
    ∃ u, engineRun (stepBound i s) t = .next u ∧ u.ph = .idle ∧ u.busy = false ∧ u.done = true) ∧
  (∀ s : State, s.Inv → s.ph ≠ .idle →
    ∃ u, engineRun (s.maxcyc.cycles * (s.probeW.toNat + 2) + 1 + 129) s = .next u ∧ u.ph = .idle ∧
      u.busy = false ∧ u.done = true)

/-- The scratch registers are unobservable outside the phases that use them (10_state.md R39, R48; 93 U11): setting every
unused one to its reset value changes no outcome of a step, up to unused registers again. So no behaviour depends on the
values of log 9. -/
def Obligations.UnusedScratchIsUnobservable : Prop :=
  ∀ s : State, mapNext State.forgetScratch (step s.forgetScratch) = mapNext State.forgetScratch (step s)

/-! ## The host's pure rules -/

/-- 44_host_sequences.md R191: mode selection, with the label in milliseconds. -/
def Obligations.ModeSelectionRule : Prop :=
  ∀ t : Scheduler.TimebaseSetting,
    let ms := match t.labelUnit with
      | .ms => t.labelValue
      | .s => 1000 * t.labelValue
    (t.intervalMicroseconds = 0 ∧ 1000 ≤ ms → Scheduler.selectMode t = .rolling) ∧
    (¬(t.intervalMicroseconds = 0 ∧ 1000 ≤ ms) → 101 ≤ ms → Scheduler.selectMode t = .asyncChunked) ∧
    (ms < 101 → Scheduler.selectMode t = .blocking)

/-- 44_host_sequences.md R197, in part: "with reset value `r` a redraw is scheduled every `r + 1` ticks": after a redraw
the next `r` ticks schedule none and the one after does. -/
def Obligations.RedrawEveryRPlusOneTicks : Prop :=
  ∀ r : Nat,
    let after (k : Nat) : Int := (fun c => (Scheduler.throttleTick r c).1)^[k] r
    (∀ k < r, (Scheduler.throttleTick r (after k)).2 = false) ∧
    Scheduler.throttleTick r (after r) = ((r : Int), true)

/-- 44_host_sequences.md R201, in part: an adjustment that would leave the table changes nothing; any other moves the
index. -/
def Obligations.IndexAdjustmentStaysInTable : Prop :=
  ∀ (len idx : Nat) (change : Int), idx < len →
    Scheduler.adjustIndex len idx change < len ∧
    ((idx : Int) + change < 0 ∨ (len : Int) ≤ idx + change → Scheduler.adjustIndex len idx change = idx) ∧
    (0 ≤ (idx : Int) + change → (idx : Int) + change < len →
      (Scheduler.adjustIndex len idx change : Int) = idx + change)

/-! ## Whole runs -/

/-- 70_reset_and_hazards.md R264, the spec's derivation, and R265 with 30_encoding.md R98: the engine, when it has a step,
eventually takes it, so from every state of the invariant, whatever statements the outside world still has, the machine's
own steps end the command in progress (with `DONE` set, where no reset is to come), end a `WAIT` at the head of the list
with the block idle, and end the run: nothing left to do and `BUSY = 0`. That the turns past the list are fair to the engine
is built in as the model's form of weak fairness (log 2). -/
def Obligations.FairRunsEnd : Prop :=
  (∀ s : State, ∃ k, State.turn { s with turns := s.turns.skip k } = .engine) ∧
  (∀ s : State, s.Inv → s.busy = true →
    ∃ k t, stepRun k s = .next t ∧ t.busy = false ∧
      ((∀ x ∈ s.script, x ≠ .resetInput true) → t.done = true)) ∧
  (∀ (s : State) (rest : List HostStmt), s.Inv → s.script = .wait :: rest →
    ∃ k t, stepRun k s = .next t ∧ t.script = rest ∧ t.busy = false) ∧
  (∀ s : State, s.Inv → ∃ k t, stepRun k s = .next t ∧ t.script = [] ∧ t.busy = false)
end

