-- ==== Sys2Proof/Laws/State.lean ====
section
/-! SUPPORT. What each named update of the state leaves in each field: one lemma a field, true by definition. -/

namespace Sys2Proof.Machine.State

variable (s : State)

/-! ### raise -/

@[simp] theorem raise_scaleMv (e : ErrBit) : (s.raise e).scaleMv = s.scaleMv := rfl
@[simp] theorem raise_atten (e : ErrBit) : (s.raise e).atten = s.atten := rfl
@[simp] theorem raise_intervalUs (e : ErrBit) : (s.raise e).intervalUs = s.intervalUs := rfl
@[simp] theorem raise_trigUv (e : ErrBit) : (s.raise e).trigUv = s.trigUv := rfl
@[simp] theorem raise_probeW (e : ErrBit) : (s.raise e).probeW = s.probeW := rfl
@[simp] theorem raise_busy (e : ErrBit) : (s.raise e).busy = s.busy := rfl
@[simp] theorem raise_done (e : ErrBit) : (s.raise e).done = s.done := rfl
@[simp] theorem raise_tstate (e : ErrBit) : (s.raise e).tstate = s.tstate := rfl
@[simp] theorem raise_ie (e : ErrBit) : (s.raise e).ie = s.ie := rfl
@[simp] theorem raise_err (e : ErrBit) : (s.raise e).err = s.err ||| e.bit := rfl
@[simp] theorem raise_attempts (e : ErrBit) : (s.raise e).attempts = s.attempts := rfl
@[simp] theorem raise_trigLevel (e : ErrBit) : (s.raise e).trigLevel = s.trigLevel := rfl
@[simp] theorem raise_maxcyc (e : ErrBit) : (s.raise e).maxcyc = s.maxcyc := rfl
@[simp] theorem raise_buf (e : ErrBit) : (s.raise e).buf = s.buf := rfl
@[simp] theorem raise_ph (e : ErrBit) : (s.raise e).ph = s.ph := rfl
@[simp] theorem raise_opc (e : ErrBit) : (s.raise e).opc = s.opc := rfl
@[simp] theorem raise_n (e : ErrBit) : (s.raise e).n = s.n := rfl
@[simp] theorem raise_idx (e : ErrBit) : (s.raise e).idx = s.idx := rfl
@[simp] theorem raise_i (e : ErrBit) : (s.raise e).i = s.i := rfl
@[simp] theorem raise_j (e : ErrBit) : (s.raise e).j = s.j := rfl
@[simp] theorem raise_pb (e : ErrBit) : (s.raise e).pb = s.pb := rfl
@[simp] theorem raise_pa (e : ErrBit) : (s.raise e).pa = s.pa := rfl
@[simp] theorem raise_t0 (e : ErrBit) : (s.raise e).t0 = s.t0 := rfl
@[simp] theorem raise_resetAsserted (e : ErrBit) : (s.raise e).resetAsserted = s.resetAsserted := rfl
@[simp] theorem raise_adc (e : ErrBit) : (s.raise e).adc = s.adc := rfl
@[simp] theorem raise_now (e : ErrBit) : (s.raise e).now = s.now := rfl
@[simp] theorem raise_turns (e : ErrBit) : (s.raise e).turns = s.turns := rfl
@[simp] theorem raise_unspecDraws (e : ErrBit) : (s.raise e).unspecDraws = s.unspecDraws := rfl
@[simp] theorem raise_script (e : ErrBit) : (s.raise e).script = s.script := rfl
@[simp] theorem raise_reads (e : ErrBit) : (s.raise e).reads = s.reads := rfl
@[simp] theorem raise_pacedUs (e : ErrBit) : (s.raise e).pacedUs = s.pacedUs := rfl

/-! ### clearErr -/

@[simp] theorem clearErr_scaleMv (m : BitVec 5) : (s.clearErr m).scaleMv = s.scaleMv := rfl
@[simp] theorem clearErr_atten (m : BitVec 5) : (s.clearErr m).atten = s.atten := rfl
@[simp] theorem clearErr_intervalUs (m : BitVec 5) : (s.clearErr m).intervalUs = s.intervalUs := rfl
@[simp] theorem clearErr_trigUv (m : BitVec 5) : (s.clearErr m).trigUv = s.trigUv := rfl
@[simp] theorem clearErr_probeW (m : BitVec 5) : (s.clearErr m).probeW = s.probeW := rfl
@[simp] theorem clearErr_busy (m : BitVec 5) : (s.clearErr m).busy = s.busy := rfl
@[simp] theorem clearErr_done (m : BitVec 5) : (s.clearErr m).done = s.done := rfl
@[simp] theorem clearErr_tstate (m : BitVec 5) : (s.clearErr m).tstate = s.tstate := rfl
@[simp] theorem clearErr_ie (m : BitVec 5) : (s.clearErr m).ie = s.ie := rfl
@[simp] theorem clearErr_err (m : BitVec 5) : (s.clearErr m).err = s.err &&& ~~~m := rfl
@[simp] theorem clearErr_attempts (m : BitVec 5) : (s.clearErr m).attempts = s.attempts := rfl
@[simp] theorem clearErr_trigLevel (m : BitVec 5) : (s.clearErr m).trigLevel = s.trigLevel := rfl
@[simp] theorem clearErr_maxcyc (m : BitVec 5) : (s.clearErr m).maxcyc = s.maxcyc := rfl
@[simp] theorem clearErr_buf (m : BitVec 5) : (s.clearErr m).buf = s.buf := rfl
@[simp] theorem clearErr_ph (m : BitVec 5) : (s.clearErr m).ph = s.ph := rfl
@[simp] theorem clearErr_opc (m : BitVec 5) : (s.clearErr m).opc = s.opc := rfl
@[simp] theorem clearErr_n (m : BitVec 5) : (s.clearErr m).n = s.n := rfl
@[simp] theorem clearErr_idx (m : BitVec 5) : (s.clearErr m).idx = s.idx := rfl
@[simp] theorem clearErr_i (m : BitVec 5) : (s.clearErr m).i = s.i := rfl
@[simp] theorem clearErr_j (m : BitVec 5) : (s.clearErr m).j = s.j := rfl
@[simp] theorem clearErr_pb (m : BitVec 5) : (s.clearErr m).pb = s.pb := rfl
@[simp] theorem clearErr_pa (m : BitVec 5) : (s.clearErr m).pa = s.pa := rfl
@[simp] theorem clearErr_t0 (m : BitVec 5) : (s.clearErr m).t0 = s.t0 := rfl
@[simp] theorem clearErr_resetAsserted (m : BitVec 5) : (s.clearErr m).resetAsserted = s.resetAsserted := rfl
@[simp] theorem clearErr_adc (m : BitVec 5) : (s.clearErr m).adc = s.adc := rfl
@[simp] theorem clearErr_now (m : BitVec 5) : (s.clearErr m).now = s.now := rfl
@[simp] theorem clearErr_turns (m : BitVec 5) : (s.clearErr m).turns = s.turns := rfl
@[simp] theorem clearErr_unspecDraws (m : BitVec 5) : (s.clearErr m).unspecDraws = s.unspecDraws := rfl
@[simp] theorem clearErr_script (m : BitVec 5) : (s.clearErr m).script = s.script := rfl
@[simp] theorem clearErr_reads (m : BitVec 5) : (s.clearErr m).reads = s.reads := rfl
@[simp] theorem clearErr_pacedUs (m : BitVec 5) : (s.clearErr m).pacedUs = s.pacedUs := rfl

/-! ### ackDone -/

@[simp] theorem ackDone_scaleMv : (s.ackDone).scaleMv = s.scaleMv := rfl
@[simp] theorem ackDone_atten : (s.ackDone).atten = s.atten := rfl
@[simp] theorem ackDone_intervalUs : (s.ackDone).intervalUs = s.intervalUs := rfl
@[simp] theorem ackDone_trigUv : (s.ackDone).trigUv = s.trigUv := rfl
@[simp] theorem ackDone_probeW : (s.ackDone).probeW = s.probeW := rfl
@[simp] theorem ackDone_busy : (s.ackDone).busy = s.busy := rfl
@[simp] theorem ackDone_done : (s.ackDone).done = false := rfl
@[simp] theorem ackDone_tstate : (s.ackDone).tstate = s.tstate := rfl
@[simp] theorem ackDone_ie : (s.ackDone).ie = s.ie := rfl
@[simp] theorem ackDone_err : (s.ackDone).err = s.err := rfl
@[simp] theorem ackDone_attempts : (s.ackDone).attempts = s.attempts := rfl
@[simp] theorem ackDone_trigLevel : (s.ackDone).trigLevel = s.trigLevel := rfl
@[simp] theorem ackDone_maxcyc : (s.ackDone).maxcyc = s.maxcyc := rfl
@[simp] theorem ackDone_buf : (s.ackDone).buf = s.buf := rfl
@[simp] theorem ackDone_ph : (s.ackDone).ph = s.ph := rfl
@[simp] theorem ackDone_opc : (s.ackDone).opc = s.opc := rfl
@[simp] theorem ackDone_n : (s.ackDone).n = s.n := rfl
@[simp] theorem ackDone_idx : (s.ackDone).idx = s.idx := rfl
@[simp] theorem ackDone_i : (s.ackDone).i = s.i := rfl
@[simp] theorem ackDone_j : (s.ackDone).j = s.j := rfl
@[simp] theorem ackDone_pb : (s.ackDone).pb = s.pb := rfl
@[simp] theorem ackDone_pa : (s.ackDone).pa = s.pa := rfl
@[simp] theorem ackDone_t0 : (s.ackDone).t0 = s.t0 := rfl
@[simp] theorem ackDone_resetAsserted : (s.ackDone).resetAsserted = s.resetAsserted := rfl
@[simp] theorem ackDone_adc : (s.ackDone).adc = s.adc := rfl
@[simp] theorem ackDone_now : (s.ackDone).now = s.now := rfl
@[simp] theorem ackDone_turns : (s.ackDone).turns = s.turns := rfl
@[simp] theorem ackDone_unspecDraws : (s.ackDone).unspecDraws = s.unspecDraws := rfl
@[simp] theorem ackDone_script : (s.ackDone).script = s.script := rfl
@[simp] theorem ackDone_reads : (s.ackDone).reads = s.reads := rfl
@[simp] theorem ackDone_pacedUs : (s.ackDone).pacedUs = s.pacedUs := rfl

/-! ### accept -/

@[simp] theorem accept_scaleMv (c : Command) (p : Phase) : (s.accept c p).scaleMv = s.scaleMv := rfl
@[simp] theorem accept_atten (c : Command) (p : Phase) : (s.accept c p).atten = s.atten := rfl
@[simp] theorem accept_intervalUs (c : Command) (p : Phase) : (s.accept c p).intervalUs = s.intervalUs := rfl
@[simp] theorem accept_trigUv (c : Command) (p : Phase) : (s.accept c p).trigUv = s.trigUv := rfl
@[simp] theorem accept_probeW (c : Command) (p : Phase) : (s.accept c p).probeW = s.probeW := rfl
@[simp] theorem accept_busy (c : Command) (p : Phase) : (s.accept c p).busy = true := rfl
@[simp] theorem accept_done (c : Command) (p : Phase) : (s.accept c p).done = false := rfl
@[simp] theorem accept_tstate (c : Command) (p : Phase) : (s.accept c p).tstate = s.tstate := rfl
@[simp] theorem accept_ie (c : Command) (p : Phase) : (s.accept c p).ie = s.ie := rfl
@[simp] theorem accept_err (c : Command) (p : Phase) : (s.accept c p).err = s.err := rfl
@[simp] theorem accept_attempts (c : Command) (p : Phase) : (s.accept c p).attempts = s.attempts := rfl
@[simp] theorem accept_trigLevel (c : Command) (p : Phase) : (s.accept c p).trigLevel = s.trigLevel := rfl
@[simp] theorem accept_maxcyc (c : Command) (p : Phase) : (s.accept c p).maxcyc = s.maxcyc := rfl
@[simp] theorem accept_buf (c : Command) (p : Phase) : (s.accept c p).buf = s.buf := rfl
@[simp] theorem accept_ph (c : Command) (p : Phase) : (s.accept c p).ph = p := rfl
@[simp] theorem accept_opc (c : Command) (p : Phase) : (s.accept c p).opc = c := rfl
@[simp] theorem accept_n (c : Command) (p : Phase) : (s.accept c p).n = s.n := rfl
@[simp] theorem accept_idx (c : Command) (p : Phase) : (s.accept c p).idx = s.idx := rfl
@[simp] theorem accept_i (c : Command) (p : Phase) : (s.accept c p).i = s.i := rfl
@[simp] theorem accept_j (c : Command) (p : Phase) : (s.accept c p).j = s.j := rfl
@[simp] theorem accept_pb (c : Command) (p : Phase) : (s.accept c p).pb = s.pb := rfl
@[simp] theorem accept_pa (c : Command) (p : Phase) : (s.accept c p).pa = s.pa := rfl
@[simp] theorem accept_t0 (c : Command) (p : Phase) : (s.accept c p).t0 = s.t0 := rfl
@[simp] theorem accept_resetAsserted (c : Command) (p : Phase) : (s.accept c p).resetAsserted = s.resetAsserted := rfl
@[simp] theorem accept_adc (c : Command) (p : Phase) : (s.accept c p).adc = s.adc := rfl
@[simp] theorem accept_now (c : Command) (p : Phase) : (s.accept c p).now = s.now := rfl
@[simp] theorem accept_turns (c : Command) (p : Phase) : (s.accept c p).turns = s.turns := rfl
@[simp] theorem accept_unspecDraws (c : Command) (p : Phase) : (s.accept c p).unspecDraws = s.unspecDraws := rfl
@[simp] theorem accept_script (c : Command) (p : Phase) : (s.accept c p).script = s.script := rfl
@[simp] theorem accept_reads (c : Command) (p : Phase) : (s.accept c p).reads = s.reads := rfl
@[simp] theorem accept_pacedUs (c : Command) (p : Phase) : (s.accept c p).pacedUs = s.pacedUs := rfl

/-! ### finish -/

@[simp] theorem finish_scaleMv : (s.finish).scaleMv = s.scaleMv := rfl
@[simp] theorem finish_atten : (s.finish).atten = s.atten := rfl
@[simp] theorem finish_intervalUs : (s.finish).intervalUs = s.intervalUs := rfl
@[simp] theorem finish_trigUv : (s.finish).trigUv = s.trigUv := rfl
@[simp] theorem finish_probeW : (s.finish).probeW = s.probeW := rfl
@[simp] theorem finish_busy : (s.finish).busy = false := rfl
@[simp] theorem finish_done : (s.finish).done = true := rfl
@[simp] theorem finish_tstate : (s.finish).tstate = s.tstate := rfl
@[simp] theorem finish_ie : (s.finish).ie = s.ie := rfl
@[simp] theorem finish_err : (s.finish).err = s.err := rfl
@[simp] theorem finish_attempts : (s.finish).attempts = s.attempts := rfl
@[simp] theorem finish_trigLevel : (s.finish).trigLevel = s.trigLevel := rfl
@[simp] theorem finish_maxcyc : (s.finish).maxcyc = s.maxcyc := rfl
@[simp] theorem finish_buf : (s.finish).buf = s.buf := rfl
@[simp] theorem finish_ph : (s.finish).ph = .idle := rfl
@[simp] theorem finish_opc : (s.finish).opc = s.opc := rfl
@[simp] theorem finish_n : (s.finish).n = s.n := rfl
@[simp] theorem finish_idx : (s.finish).idx = s.idx := rfl
@[simp] theorem finish_i : (s.finish).i = s.i := rfl
@[simp] theorem finish_j : (s.finish).j = s.j := rfl
@[simp] theorem finish_pb : (s.finish).pb = s.pb := rfl
@[simp] theorem finish_pa : (s.finish).pa = s.pa := rfl
@[simp] theorem finish_t0 : (s.finish).t0 = s.t0 := rfl
@[simp] theorem finish_resetAsserted : (s.finish).resetAsserted = s.resetAsserted := rfl
@[simp] theorem finish_adc : (s.finish).adc = s.adc := rfl
@[simp] theorem finish_now : (s.finish).now = s.now := rfl
@[simp] theorem finish_turns : (s.finish).turns = s.turns := rfl
@[simp] theorem finish_unspecDraws : (s.finish).unspecDraws = s.unspecDraws := rfl
@[simp] theorem finish_script : (s.finish).script = s.script := rfl
@[simp] theorem finish_reads : (s.finish).reads = s.reads := rfl
@[simp] theorem finish_pacedUs : (s.finish).pacedUs = s.pacedUs := rfl

/-! ### setCell -/

@[simp] theorem setCell_scaleMv (k : Nat) (v : Byte) : (s.setCell k v).scaleMv = s.scaleMv := rfl
@[simp] theorem setCell_atten (k : Nat) (v : Byte) : (s.setCell k v).atten = s.atten := rfl
@[simp] theorem setCell_intervalUs (k : Nat) (v : Byte) : (s.setCell k v).intervalUs = s.intervalUs := rfl
@[simp] theorem setCell_trigUv (k : Nat) (v : Byte) : (s.setCell k v).trigUv = s.trigUv := rfl
@[simp] theorem setCell_probeW (k : Nat) (v : Byte) : (s.setCell k v).probeW = s.probeW := rfl
@[simp] theorem setCell_busy (k : Nat) (v : Byte) : (s.setCell k v).busy = s.busy := rfl
@[simp] theorem setCell_done (k : Nat) (v : Byte) : (s.setCell k v).done = s.done := rfl
@[simp] theorem setCell_tstate (k : Nat) (v : Byte) : (s.setCell k v).tstate = s.tstate := rfl
@[simp] theorem setCell_ie (k : Nat) (v : Byte) : (s.setCell k v).ie = s.ie := rfl
@[simp] theorem setCell_err (k : Nat) (v : Byte) : (s.setCell k v).err = s.err := rfl
@[simp] theorem setCell_attempts (k : Nat) (v : Byte) : (s.setCell k v).attempts = s.attempts := rfl
@[simp] theorem setCell_trigLevel (k : Nat) (v : Byte) : (s.setCell k v).trigLevel = s.trigLevel := rfl
@[simp] theorem setCell_maxcyc (k : Nat) (v : Byte) : (s.setCell k v).maxcyc = s.maxcyc := rfl
@[simp] theorem setCell_buf (k : Nat) (v : Byte) : (s.setCell k v).buf = Memory.write s.buf (cellOffset k) v := rfl
@[simp] theorem setCell_ph (k : Nat) (v : Byte) : (s.setCell k v).ph = s.ph := rfl
@[simp] theorem setCell_opc (k : Nat) (v : Byte) : (s.setCell k v).opc = s.opc := rfl
@[simp] theorem setCell_n (k : Nat) (v : Byte) : (s.setCell k v).n = s.n := rfl
@[simp] theorem setCell_idx (k : Nat) (v : Byte) : (s.setCell k v).idx = s.idx := rfl
@[simp] theorem setCell_i (k : Nat) (v : Byte) : (s.setCell k v).i = s.i := rfl
@[simp] theorem setCell_j (k : Nat) (v : Byte) : (s.setCell k v).j = s.j := rfl
@[simp] theorem setCell_pb (k : Nat) (v : Byte) : (s.setCell k v).pb = s.pb := rfl
@[simp] theorem setCell_pa (k : Nat) (v : Byte) : (s.setCell k v).pa = s.pa := rfl
@[simp] theorem setCell_t0 (k : Nat) (v : Byte) : (s.setCell k v).t0 = s.t0 := rfl
@[simp] theorem setCell_resetAsserted (k : Nat) (v : Byte) : (s.setCell k v).resetAsserted = s.resetAsserted := rfl
@[simp] theorem setCell_adc (k : Nat) (v : Byte) : (s.setCell k v).adc = s.adc := rfl
@[simp] theorem setCell_now (k : Nat) (v : Byte) : (s.setCell k v).now = s.now := rfl
@[simp] theorem setCell_turns (k : Nat) (v : Byte) : (s.setCell k v).turns = s.turns := rfl
@[simp] theorem setCell_unspecDraws (k : Nat) (v : Byte) : (s.setCell k v).unspecDraws = s.unspecDraws := rfl
@[simp] theorem setCell_script (k : Nat) (v : Byte) : (s.setCell k v).script = s.script := rfl
@[simp] theorem setCell_reads (k : Nat) (v : Byte) : (s.setCell k v).reads = s.reads := rfl
@[simp] theorem setCell_pacedUs (k : Nat) (v : Byte) : (s.setCell k v).pacedUs = s.pacedUs := rfl

/-! ### shiftAppend -/

@[simp] theorem shiftAppend_scaleMv (v : Byte) : (s.shiftAppend v).scaleMv = s.scaleMv := rfl
@[simp] theorem shiftAppend_atten (v : Byte) : (s.shiftAppend v).atten = s.atten := rfl
@[simp] theorem shiftAppend_intervalUs (v : Byte) : (s.shiftAppend v).intervalUs = s.intervalUs := rfl
@[simp] theorem shiftAppend_trigUv (v : Byte) : (s.shiftAppend v).trigUv = s.trigUv := rfl
@[simp] theorem shiftAppend_probeW (v : Byte) : (s.shiftAppend v).probeW = s.probeW := rfl
@[simp] theorem shiftAppend_busy (v : Byte) : (s.shiftAppend v).busy = s.busy := rfl
@[simp] theorem shiftAppend_done (v : Byte) : (s.shiftAppend v).done = s.done := rfl
@[simp] theorem shiftAppend_tstate (v : Byte) : (s.shiftAppend v).tstate = s.tstate := rfl
@[simp] theorem shiftAppend_ie (v : Byte) : (s.shiftAppend v).ie = s.ie := rfl
@[simp] theorem shiftAppend_err (v : Byte) : (s.shiftAppend v).err = s.err := rfl
@[simp] theorem shiftAppend_attempts (v : Byte) : (s.shiftAppend v).attempts = s.attempts := rfl
@[simp] theorem shiftAppend_trigLevel (v : Byte) : (s.shiftAppend v).trigLevel = s.trigLevel := rfl
@[simp] theorem shiftAppend_maxcyc (v : Byte) : (s.shiftAppend v).maxcyc = s.maxcyc := rfl
@[simp] theorem shiftAppend_buf (v : Byte) : (s.shiftAppend v).buf = Memory.write (Memory.shiftDown bufBase s.buf) (cellOffset 127) v := rfl
@[simp] theorem shiftAppend_ph (v : Byte) : (s.shiftAppend v).ph = s.ph := rfl
@[simp] theorem shiftAppend_opc (v : Byte) : (s.shiftAppend v).opc = s.opc := rfl
@[simp] theorem shiftAppend_n (v : Byte) : (s.shiftAppend v).n = s.n := rfl
@[simp] theorem shiftAppend_idx (v : Byte) : (s.shiftAppend v).idx = s.idx := rfl
@[simp] theorem shiftAppend_i (v : Byte) : (s.shiftAppend v).i = s.i := rfl
@[simp] theorem shiftAppend_j (v : Byte) : (s.shiftAppend v).j = s.j := rfl
@[simp] theorem shiftAppend_pb (v : Byte) : (s.shiftAppend v).pb = s.pb := rfl
@[simp] theorem shiftAppend_pa (v : Byte) : (s.shiftAppend v).pa = s.pa := rfl
@[simp] theorem shiftAppend_t0 (v : Byte) : (s.shiftAppend v).t0 = s.t0 := rfl
@[simp] theorem shiftAppend_resetAsserted (v : Byte) : (s.shiftAppend v).resetAsserted = s.resetAsserted := rfl
@[simp] theorem shiftAppend_adc (v : Byte) : (s.shiftAppend v).adc = s.adc := rfl
@[simp] theorem shiftAppend_now (v : Byte) : (s.shiftAppend v).now = s.now := rfl
@[simp] theorem shiftAppend_turns (v : Byte) : (s.shiftAppend v).turns = s.turns := rfl
@[simp] theorem shiftAppend_unspecDraws (v : Byte) : (s.shiftAppend v).unspecDraws = s.unspecDraws := rfl
@[simp] theorem shiftAppend_script (v : Byte) : (s.shiftAppend v).script = s.script := rfl
@[simp] theorem shiftAppend_reads (v : Byte) : (s.shiftAppend v).reads = s.reads := rfl
@[simp] theorem shiftAppend_pacedUs (v : Byte) : (s.shiftAppend v).pacedUs = s.pacedUs := rfl

/-! ### clearBuf -/

@[simp] theorem clearBuf_scaleMv : (s.clearBuf).scaleMv = s.scaleMv := rfl
@[simp] theorem clearBuf_atten : (s.clearBuf).atten = s.atten := rfl
@[simp] theorem clearBuf_intervalUs : (s.clearBuf).intervalUs = s.intervalUs := rfl
@[simp] theorem clearBuf_trigUv : (s.clearBuf).trigUv = s.trigUv := rfl
@[simp] theorem clearBuf_probeW : (s.clearBuf).probeW = s.probeW := rfl
@[simp] theorem clearBuf_busy : (s.clearBuf).busy = s.busy := rfl
@[simp] theorem clearBuf_done : (s.clearBuf).done = s.done := rfl
@[simp] theorem clearBuf_tstate : (s.clearBuf).tstate = s.tstate := rfl
@[simp] theorem clearBuf_ie : (s.clearBuf).ie = s.ie := rfl
@[simp] theorem clearBuf_err : (s.clearBuf).err = s.err := rfl
@[simp] theorem clearBuf_attempts : (s.clearBuf).attempts = s.attempts := rfl
@[simp] theorem clearBuf_trigLevel : (s.clearBuf).trigLevel = s.trigLevel := rfl
@[simp] theorem clearBuf_maxcyc : (s.clearBuf).maxcyc = s.maxcyc := rfl
@[simp] theorem clearBuf_buf : (s.clearBuf).buf = [] := rfl
@[simp] theorem clearBuf_ph : (s.clearBuf).ph = s.ph := rfl
@[simp] theorem clearBuf_opc : (s.clearBuf).opc = s.opc := rfl
@[simp] theorem clearBuf_n : (s.clearBuf).n = s.n := rfl
@[simp] theorem clearBuf_idx : (s.clearBuf).idx = s.idx := rfl
@[simp] theorem clearBuf_i : (s.clearBuf).i = s.i := rfl
@[simp] theorem clearBuf_j : (s.clearBuf).j = s.j := rfl
@[simp] theorem clearBuf_pb : (s.clearBuf).pb = s.pb := rfl
@[simp] theorem clearBuf_pa : (s.clearBuf).pa = s.pa := rfl
@[simp] theorem clearBuf_t0 : (s.clearBuf).t0 = s.t0 := rfl
@[simp] theorem clearBuf_resetAsserted : (s.clearBuf).resetAsserted = s.resetAsserted := rfl
@[simp] theorem clearBuf_adc : (s.clearBuf).adc = s.adc := rfl
@[simp] theorem clearBuf_now : (s.clearBuf).now = s.now := rfl
@[simp] theorem clearBuf_turns : (s.clearBuf).turns = s.turns := rfl
@[simp] theorem clearBuf_unspecDraws : (s.clearBuf).unspecDraws = s.unspecDraws := rfl
@[simp] theorem clearBuf_script : (s.clearBuf).script = s.script := rfl
@[simp] theorem clearBuf_reads : (s.clearBuf).reads = s.reads := rfl
@[simp] theorem clearBuf_pacedUs : (s.clearBuf).pacedUs = s.pacedUs := rfl

/-! ### afterReading -/

@[simp] theorem afterReading_scaleMv : (s.afterReading).scaleMv = s.scaleMv := rfl
@[simp] theorem afterReading_atten : (s.afterReading).atten = s.atten := rfl
@[simp] theorem afterReading_intervalUs : (s.afterReading).intervalUs = s.intervalUs := rfl
@[simp] theorem afterReading_trigUv : (s.afterReading).trigUv = s.trigUv := rfl
@[simp] theorem afterReading_probeW : (s.afterReading).probeW = s.probeW := rfl
@[simp] theorem afterReading_busy : (s.afterReading).busy = s.busy := rfl
@[simp] theorem afterReading_done : (s.afterReading).done = s.done := rfl
@[simp] theorem afterReading_tstate : (s.afterReading).tstate = s.tstate := rfl
@[simp] theorem afterReading_ie : (s.afterReading).ie = s.ie := rfl
@[simp] theorem afterReading_err : (s.afterReading).err = s.err := rfl
@[simp] theorem afterReading_attempts : (s.afterReading).attempts = s.attempts := rfl
@[simp] theorem afterReading_trigLevel : (s.afterReading).trigLevel = s.trigLevel := rfl
@[simp] theorem afterReading_maxcyc : (s.afterReading).maxcyc = s.maxcyc := rfl
@[simp] theorem afterReading_buf : (s.afterReading).buf = s.buf := rfl
@[simp] theorem afterReading_ph : (s.afterReading).ph = s.ph := rfl
@[simp] theorem afterReading_opc : (s.afterReading).opc = s.opc := rfl
@[simp] theorem afterReading_n : (s.afterReading).n = s.n := rfl
@[simp] theorem afterReading_idx : (s.afterReading).idx = s.idx := rfl
@[simp] theorem afterReading_i : (s.afterReading).i = s.i := rfl
@[simp] theorem afterReading_j : (s.afterReading).j = s.j := rfl
@[simp] theorem afterReading_pb : (s.afterReading).pb = s.pb := rfl
@[simp] theorem afterReading_pa : (s.afterReading).pa = s.pa := rfl
@[simp] theorem afterReading_t0 : (s.afterReading).t0 = s.t0 := rfl
@[simp] theorem afterReading_resetAsserted : (s.afterReading).resetAsserted = s.resetAsserted := rfl
@[simp] theorem afterReading_adc : (s.afterReading).adc = s.adc.skip 1 := rfl
@[simp] theorem afterReading_now : (s.afterReading).now = s.now := rfl
@[simp] theorem afterReading_turns : (s.afterReading).turns = s.turns := rfl
@[simp] theorem afterReading_unspecDraws : (s.afterReading).unspecDraws = s.unspecDraws := rfl
@[simp] theorem afterReading_script : (s.afterReading).script = s.script := rfl
@[simp] theorem afterReading_reads : (s.afterReading).reads = s.reads := rfl
@[simp] theorem afterReading_pacedUs : (s.afterReading).pacedUs = s.pacedUs := rfl

/-! ### afterTurn -/

@[simp] theorem afterTurn_scaleMv : (s.afterTurn).scaleMv = s.scaleMv := rfl
@[simp] theorem afterTurn_atten : (s.afterTurn).atten = s.atten := rfl
@[simp] theorem afterTurn_intervalUs : (s.afterTurn).intervalUs = s.intervalUs := rfl
@[simp] theorem afterTurn_trigUv : (s.afterTurn).trigUv = s.trigUv := rfl
@[simp] theorem afterTurn_probeW : (s.afterTurn).probeW = s.probeW := rfl
@[simp] theorem afterTurn_busy : (s.afterTurn).busy = s.busy := rfl
@[simp] theorem afterTurn_done : (s.afterTurn).done = s.done := rfl
@[simp] theorem afterTurn_tstate : (s.afterTurn).tstate = s.tstate := rfl
@[simp] theorem afterTurn_ie : (s.afterTurn).ie = s.ie := rfl
@[simp] theorem afterTurn_err : (s.afterTurn).err = s.err := rfl
@[simp] theorem afterTurn_attempts : (s.afterTurn).attempts = s.attempts := rfl
@[simp] theorem afterTurn_trigLevel : (s.afterTurn).trigLevel = s.trigLevel := rfl
@[simp] theorem afterTurn_maxcyc : (s.afterTurn).maxcyc = s.maxcyc := rfl
@[simp] theorem afterTurn_buf : (s.afterTurn).buf = s.buf := rfl
@[simp] theorem afterTurn_ph : (s.afterTurn).ph = s.ph := rfl
@[simp] theorem afterTurn_opc : (s.afterTurn).opc = s.opc := rfl
@[simp] theorem afterTurn_n : (s.afterTurn).n = s.n := rfl
@[simp] theorem afterTurn_idx : (s.afterTurn).idx = s.idx := rfl
@[simp] theorem afterTurn_i : (s.afterTurn).i = s.i := rfl
@[simp] theorem afterTurn_j : (s.afterTurn).j = s.j := rfl
@[simp] theorem afterTurn_pb : (s.afterTurn).pb = s.pb := rfl
@[simp] theorem afterTurn_pa : (s.afterTurn).pa = s.pa := rfl
@[simp] theorem afterTurn_t0 : (s.afterTurn).t0 = s.t0 := rfl
@[simp] theorem afterTurn_resetAsserted : (s.afterTurn).resetAsserted = s.resetAsserted := rfl
@[simp] theorem afterTurn_adc : (s.afterTurn).adc = s.adc := rfl
@[simp] theorem afterTurn_now : (s.afterTurn).now = s.now := rfl
@[simp] theorem afterTurn_turns : (s.afterTurn).turns = s.turns.skip 1 := rfl
@[simp] theorem afterTurn_unspecDraws : (s.afterTurn).unspecDraws = s.unspecDraws := rfl
@[simp] theorem afterTurn_script : (s.afterTurn).script = s.script := rfl
@[simp] theorem afterTurn_reads : (s.afterTurn).reads = s.reads := rfl
@[simp] theorem afterTurn_pacedUs : (s.afterTurn).pacedUs = s.pacedUs := rfl

/-! ### afterUnspecified -/

@[simp] theorem afterUnspecified_scaleMv : (s.afterUnspecified).scaleMv = s.scaleMv := rfl
@[simp] theorem afterUnspecified_atten : (s.afterUnspecified).atten = s.atten := rfl
@[simp] theorem afterUnspecified_intervalUs : (s.afterUnspecified).intervalUs = s.intervalUs := rfl
@[simp] theorem afterUnspecified_trigUv : (s.afterUnspecified).trigUv = s.trigUv := rfl
@[simp] theorem afterUnspecified_probeW : (s.afterUnspecified).probeW = s.probeW := rfl
@[simp] theorem afterUnspecified_busy : (s.afterUnspecified).busy = s.busy := rfl
@[simp] theorem afterUnspecified_done : (s.afterUnspecified).done = s.done := rfl
@[simp] theorem afterUnspecified_tstate : (s.afterUnspecified).tstate = s.tstate := rfl
@[simp] theorem afterUnspecified_ie : (s.afterUnspecified).ie = s.ie := rfl
@[simp] theorem afterUnspecified_err : (s.afterUnspecified).err = s.err := rfl
@[simp] theorem afterUnspecified_attempts : (s.afterUnspecified).attempts = s.attempts := rfl
@[simp] theorem afterUnspecified_trigLevel : (s.afterUnspecified).trigLevel = s.trigLevel := rfl
@[simp] theorem afterUnspecified_maxcyc : (s.afterUnspecified).maxcyc = s.maxcyc := rfl
@[simp] theorem afterUnspecified_buf : (s.afterUnspecified).buf = s.buf := rfl
@[simp] theorem afterUnspecified_ph : (s.afterUnspecified).ph = s.ph := rfl
@[simp] theorem afterUnspecified_opc : (s.afterUnspecified).opc = s.opc := rfl
@[simp] theorem afterUnspecified_n : (s.afterUnspecified).n = s.n := rfl
@[simp] theorem afterUnspecified_idx : (s.afterUnspecified).idx = s.idx := rfl
@[simp] theorem afterUnspecified_i : (s.afterUnspecified).i = s.i := rfl
@[simp] theorem afterUnspecified_j : (s.afterUnspecified).j = s.j := rfl
@[simp] theorem afterUnspecified_pb : (s.afterUnspecified).pb = s.pb := rfl
@[simp] theorem afterUnspecified_pa : (s.afterUnspecified).pa = s.pa := rfl
@[simp] theorem afterUnspecified_t0 : (s.afterUnspecified).t0 = s.t0 := rfl
@[simp] theorem afterUnspecified_resetAsserted : (s.afterUnspecified).resetAsserted = s.resetAsserted := rfl
@[simp] theorem afterUnspecified_adc : (s.afterUnspecified).adc = s.adc := rfl
@[simp] theorem afterUnspecified_now : (s.afterUnspecified).now = s.now := rfl
@[simp] theorem afterUnspecified_turns : (s.afterUnspecified).turns = s.turns := rfl
@[simp] theorem afterUnspecified_unspecDraws : (s.afterUnspecified).unspecDraws = s.unspecDraws + 1 := rfl
@[simp] theorem afterUnspecified_script : (s.afterUnspecified).script = s.script := rfl
@[simp] theorem afterUnspecified_reads : (s.afterUnspecified).reads = s.reads := rfl
@[simp] theorem afterUnspecified_pacedUs : (s.afterUnspecified).pacedUs = s.pacedUs := rfl

/-! ### popStmt -/

@[simp] theorem popStmt_scaleMv : (s.popStmt).scaleMv = s.scaleMv := rfl
@[simp] theorem popStmt_atten : (s.popStmt).atten = s.atten := rfl
@[simp] theorem popStmt_intervalUs : (s.popStmt).intervalUs = s.intervalUs := rfl
@[simp] theorem popStmt_trigUv : (s.popStmt).trigUv = s.trigUv := rfl
@[simp] theorem popStmt_probeW : (s.popStmt).probeW = s.probeW := rfl
@[simp] theorem popStmt_busy : (s.popStmt).busy = s.busy := rfl
@[simp] theorem popStmt_done : (s.popStmt).done = s.done := rfl
@[simp] theorem popStmt_tstate : (s.popStmt).tstate = s.tstate := rfl
@[simp] theorem popStmt_ie : (s.popStmt).ie = s.ie := rfl
@[simp] theorem popStmt_err : (s.popStmt).err = s.err := rfl
@[simp] theorem popStmt_attempts : (s.popStmt).attempts = s.attempts := rfl
@[simp] theorem popStmt_trigLevel : (s.popStmt).trigLevel = s.trigLevel := rfl
@[simp] theorem popStmt_maxcyc : (s.popStmt).maxcyc = s.maxcyc := rfl
@[simp] theorem popStmt_buf : (s.popStmt).buf = s.buf := rfl
@[simp] theorem popStmt_ph : (s.popStmt).ph = s.ph := rfl
@[simp] theorem popStmt_opc : (s.popStmt).opc = s.opc := rfl
@[simp] theorem popStmt_n : (s.popStmt).n = s.n := rfl
@[simp] theorem popStmt_idx : (s.popStmt).idx = s.idx := rfl
@[simp] theorem popStmt_i : (s.popStmt).i = s.i := rfl
@[simp] theorem popStmt_j : (s.popStmt).j = s.j := rfl
@[simp] theorem popStmt_pb : (s.popStmt).pb = s.pb := rfl
@[simp] theorem popStmt_pa : (s.popStmt).pa = s.pa := rfl
@[simp] theorem popStmt_t0 : (s.popStmt).t0 = s.t0 := rfl
@[simp] theorem popStmt_resetAsserted : (s.popStmt).resetAsserted = s.resetAsserted := rfl
@[simp] theorem popStmt_adc : (s.popStmt).adc = s.adc := rfl
@[simp] theorem popStmt_now : (s.popStmt).now = s.now := rfl
@[simp] theorem popStmt_turns : (s.popStmt).turns = s.turns := rfl
@[simp] theorem popStmt_unspecDraws : (s.popStmt).unspecDraws = s.unspecDraws := rfl
@[simp] theorem popStmt_script : (s.popStmt).script = s.script.tail := rfl
@[simp] theorem popStmt_reads : (s.popStmt).reads = s.reads := rfl
@[simp] theorem popStmt_pacedUs : (s.popStmt).pacedUs = s.pacedUs := rfl

/-! ### record -/

@[simp] theorem record_scaleMv (r : BusRead) : (s.record r).scaleMv = s.scaleMv := rfl
@[simp] theorem record_atten (r : BusRead) : (s.record r).atten = s.atten := rfl
@[simp] theorem record_intervalUs (r : BusRead) : (s.record r).intervalUs = s.intervalUs := rfl
@[simp] theorem record_trigUv (r : BusRead) : (s.record r).trigUv = s.trigUv := rfl
@[simp] theorem record_probeW (r : BusRead) : (s.record r).probeW = s.probeW := rfl
@[simp] theorem record_busy (r : BusRead) : (s.record r).busy = s.busy := rfl
@[simp] theorem record_done (r : BusRead) : (s.record r).done = s.done := rfl
@[simp] theorem record_tstate (r : BusRead) : (s.record r).tstate = s.tstate := rfl
@[simp] theorem record_ie (r : BusRead) : (s.record r).ie = s.ie := rfl
@[simp] theorem record_err (r : BusRead) : (s.record r).err = s.err := rfl
@[simp] theorem record_attempts (r : BusRead) : (s.record r).attempts = s.attempts := rfl
@[simp] theorem record_trigLevel (r : BusRead) : (s.record r).trigLevel = s.trigLevel := rfl
@[simp] theorem record_maxcyc (r : BusRead) : (s.record r).maxcyc = s.maxcyc := rfl
@[simp] theorem record_buf (r : BusRead) : (s.record r).buf = s.buf := rfl
@[simp] theorem record_ph (r : BusRead) : (s.record r).ph = s.ph := rfl
@[simp] theorem record_opc (r : BusRead) : (s.record r).opc = s.opc := rfl
@[simp] theorem record_n (r : BusRead) : (s.record r).n = s.n := rfl
@[simp] theorem record_idx (r : BusRead) : (s.record r).idx = s.idx := rfl
@[simp] theorem record_i (r : BusRead) : (s.record r).i = s.i := rfl
@[simp] theorem record_j (r : BusRead) : (s.record r).j = s.j := rfl
@[simp] theorem record_pb (r : BusRead) : (s.record r).pb = s.pb := rfl
@[simp] theorem record_pa (r : BusRead) : (s.record r).pa = s.pa := rfl
@[simp] theorem record_t0 (r : BusRead) : (s.record r).t0 = s.t0 := rfl
@[simp] theorem record_resetAsserted (r : BusRead) : (s.record r).resetAsserted = s.resetAsserted := rfl
@[simp] theorem record_adc (r : BusRead) : (s.record r).adc = s.adc := rfl
@[simp] theorem record_now (r : BusRead) : (s.record r).now = s.now := rfl
@[simp] theorem record_turns (r : BusRead) : (s.record r).turns = s.turns := rfl
@[simp] theorem record_unspecDraws (r : BusRead) : (s.record r).unspecDraws = s.unspecDraws := rfl
@[simp] theorem record_script (r : BusRead) : (s.record r).script = s.script := rfl
@[simp] theorem record_reads (r : BusRead) : (s.record r).reads = r :: s.reads := rfl
@[simp] theorem record_pacedUs (r : BusRead) : (s.record r).pacedUs = s.pacedUs := rfl

/-! ### foldProbe -/

@[simp] theorem foldProbe_scaleMv (b : Byte) : (s.foldProbe b).scaleMv = s.scaleMv := rfl
@[simp] theorem foldProbe_atten (b : Byte) : (s.foldProbe b).atten = s.atten := rfl
@[simp] theorem foldProbe_intervalUs (b : Byte) : (s.foldProbe b).intervalUs = s.intervalUs := rfl
@[simp] theorem foldProbe_trigUv (b : Byte) : (s.foldProbe b).trigUv = s.trigUv := rfl
@[simp] theorem foldProbe_probeW (b : Byte) : (s.foldProbe b).probeW = s.probeW := rfl
@[simp] theorem foldProbe_busy (b : Byte) : (s.foldProbe b).busy = s.busy := rfl
@[simp] theorem foldProbe_done (b : Byte) : (s.foldProbe b).done = s.done := rfl
@[simp] theorem foldProbe_tstate (b : Byte) : (s.foldProbe b).tstate = s.tstate := rfl
@[simp] theorem foldProbe_ie (b : Byte) : (s.foldProbe b).ie = s.ie := rfl
@[simp] theorem foldProbe_err (b : Byte) : (s.foldProbe b).err = s.err := rfl
@[simp] theorem foldProbe_attempts (b : Byte) : (s.foldProbe b).attempts = s.attempts := rfl
@[simp] theorem foldProbe_trigLevel (b : Byte) : (s.foldProbe b).trigLevel = s.trigLevel := rfl
@[simp] theorem foldProbe_maxcyc (b : Byte) : (s.foldProbe b).maxcyc = s.maxcyc := rfl
@[simp] theorem foldProbe_buf (b : Byte) : (s.foldProbe b).buf = s.buf := rfl
@[simp] theorem foldProbe_ph (b : Byte) : (s.foldProbe b).ph = s.ph := rfl
@[simp] theorem foldProbe_opc (b : Byte) : (s.foldProbe b).opc = s.opc := rfl
@[simp] theorem foldProbe_n (b : Byte) : (s.foldProbe b).n = s.n := rfl
@[simp] theorem foldProbe_idx (b : Byte) : (s.foldProbe b).idx = s.idx := rfl
@[simp] theorem foldProbe_i (b : Byte) : (s.foldProbe b).i = s.i := rfl
@[simp] theorem foldProbe_j (b : Byte) : (s.foldProbe b).j = s.j + 1 := rfl
@[simp] theorem foldProbe_pb (b : Byte) : (s.foldProbe b).pb = (s.pb && sampleBelow b s.trigLevel) := rfl
@[simp] theorem foldProbe_pa (b : Byte) : (s.foldProbe b).pa = (s.pa && sampleAbove b s.trigLevel) := rfl
@[simp] theorem foldProbe_t0 (b : Byte) : (s.foldProbe b).t0 = s.t0 := rfl
@[simp] theorem foldProbe_resetAsserted (b : Byte) : (s.foldProbe b).resetAsserted = s.resetAsserted := rfl
@[simp] theorem foldProbe_adc (b : Byte) : (s.foldProbe b).adc = s.adc := rfl
@[simp] theorem foldProbe_now (b : Byte) : (s.foldProbe b).now = s.now := rfl
@[simp] theorem foldProbe_turns (b : Byte) : (s.foldProbe b).turns = s.turns := rfl
@[simp] theorem foldProbe_unspecDraws (b : Byte) : (s.foldProbe b).unspecDraws = s.unspecDraws := rfl
@[simp] theorem foldProbe_script (b : Byte) : (s.foldProbe b).script = s.script := rfl
@[simp] theorem foldProbe_reads (b : Byte) : (s.foldProbe b).reads = s.reads := rfl
@[simp] theorem foldProbe_pacedUs (b : Byte) : (s.foldProbe b).pacedUs = s.pacedUs := rfl

/-! ### startProbe -/

@[simp] theorem startProbe_scaleMv : (s.startProbe).scaleMv = s.scaleMv := rfl
@[simp] theorem startProbe_atten : (s.startProbe).atten = s.atten := rfl
@[simp] theorem startProbe_intervalUs : (s.startProbe).intervalUs = s.intervalUs := rfl
@[simp] theorem startProbe_trigUv : (s.startProbe).trigUv = s.trigUv := rfl
@[simp] theorem startProbe_probeW : (s.startProbe).probeW = s.probeW := rfl
@[simp] theorem startProbe_busy : (s.startProbe).busy = s.busy := rfl
@[simp] theorem startProbe_done : (s.startProbe).done = s.done := rfl
@[simp] theorem startProbe_tstate : (s.startProbe).tstate = s.tstate := rfl
@[simp] theorem startProbe_ie : (s.startProbe).ie = s.ie := rfl
@[simp] theorem startProbe_err : (s.startProbe).err = s.err := rfl
@[simp] theorem startProbe_attempts : (s.startProbe).attempts = s.attempts := rfl
@[simp] theorem startProbe_trigLevel : (s.startProbe).trigLevel = s.trigLevel := rfl
@[simp] theorem startProbe_maxcyc : (s.startProbe).maxcyc = s.maxcyc := rfl
@[simp] theorem startProbe_buf : (s.startProbe).buf = s.buf := rfl
@[simp] theorem startProbe_ph : (s.startProbe).ph = .trigProbe := rfl
@[simp] theorem startProbe_opc : (s.startProbe).opc = s.opc := rfl
@[simp] theorem startProbe_n : (s.startProbe).n = s.n := rfl
@[simp] theorem startProbe_idx : (s.startProbe).idx = s.idx := rfl
@[simp] theorem startProbe_i : (s.startProbe).i = s.i := rfl
@[simp] theorem startProbe_j : (s.startProbe).j = 0 := rfl
@[simp] theorem startProbe_pb : (s.startProbe).pb = true := rfl
@[simp] theorem startProbe_pa : (s.startProbe).pa = true := rfl
@[simp] theorem startProbe_t0 : (s.startProbe).t0 = s.t0 := rfl
@[simp] theorem startProbe_resetAsserted : (s.startProbe).resetAsserted = s.resetAsserted := rfl
@[simp] theorem startProbe_adc : (s.startProbe).adc = s.adc := rfl
@[simp] theorem startProbe_now : (s.startProbe).now = s.now := rfl
@[simp] theorem startProbe_turns : (s.startProbe).turns = s.turns := rfl
@[simp] theorem startProbe_unspecDraws : (s.startProbe).unspecDraws = s.unspecDraws := rfl
@[simp] theorem startProbe_script : (s.startProbe).script = s.script := rfl
@[simp] theorem startProbe_reads : (s.startProbe).reads = s.reads := rfl
@[simp] theorem startProbe_pacedUs : (s.startProbe).pacedUs = s.pacedUs := rfl

/-! ### countAttempt -/

@[simp] theorem countAttempt_scaleMv : (s.countAttempt).scaleMv = s.scaleMv := rfl
@[simp] theorem countAttempt_atten : (s.countAttempt).atten = s.atten := rfl
@[simp] theorem countAttempt_intervalUs : (s.countAttempt).intervalUs = s.intervalUs := rfl
@[simp] theorem countAttempt_trigUv : (s.countAttempt).trigUv = s.trigUv := rfl
@[simp] theorem countAttempt_probeW : (s.countAttempt).probeW = s.probeW := rfl
@[simp] theorem countAttempt_busy : (s.countAttempt).busy = s.busy := rfl
@[simp] theorem countAttempt_done : (s.countAttempt).done = s.done := rfl
@[simp] theorem countAttempt_tstate : (s.countAttempt).tstate = s.tstate := rfl
@[simp] theorem countAttempt_ie : (s.countAttempt).ie = s.ie := rfl
@[simp] theorem countAttempt_err : (s.countAttempt).err = s.err := rfl
@[simp] theorem countAttempt_attempts : (s.countAttempt).attempts = s.attempts + 1 := rfl
@[simp] theorem countAttempt_trigLevel : (s.countAttempt).trigLevel = s.trigLevel := rfl
@[simp] theorem countAttempt_maxcyc : (s.countAttempt).maxcyc = s.maxcyc := rfl
@[simp] theorem countAttempt_buf : (s.countAttempt).buf = s.buf := rfl
@[simp] theorem countAttempt_ph : (s.countAttempt).ph = s.ph := rfl
@[simp] theorem countAttempt_opc : (s.countAttempt).opc = s.opc := rfl
@[simp] theorem countAttempt_n : (s.countAttempt).n = s.n := rfl
@[simp] theorem countAttempt_idx : (s.countAttempt).idx = s.idx := rfl
@[simp] theorem countAttempt_i : (s.countAttempt).i = s.i := rfl
@[simp] theorem countAttempt_j : (s.countAttempt).j = s.j := rfl
@[simp] theorem countAttempt_pb : (s.countAttempt).pb = s.pb := rfl
@[simp] theorem countAttempt_pa : (s.countAttempt).pa = s.pa := rfl
@[simp] theorem countAttempt_t0 : (s.countAttempt).t0 = s.t0 := rfl
@[simp] theorem countAttempt_resetAsserted : (s.countAttempt).resetAsserted = s.resetAsserted := rfl
@[simp] theorem countAttempt_adc : (s.countAttempt).adc = s.adc := rfl
@[simp] theorem countAttempt_now : (s.countAttempt).now = s.now := rfl
@[simp] theorem countAttempt_turns : (s.countAttempt).turns = s.turns := rfl
@[simp] theorem countAttempt_unspecDraws : (s.countAttempt).unspecDraws = s.unspecDraws := rfl
@[simp] theorem countAttempt_script : (s.countAttempt).script = s.script := rfl
@[simp] theorem countAttempt_reads : (s.countAttempt).reads = s.reads := rfl
@[simp] theorem countAttempt_pacedUs : (s.countAttempt).pacedUs = s.pacedUs := rfl

/-! ### setTState -/

@[simp] theorem setTState_scaleMv (t : TState) : (s.setTState t).scaleMv = s.scaleMv := rfl
@[simp] theorem setTState_atten (t : TState) : (s.setTState t).atten = s.atten := rfl
@[simp] theorem setTState_intervalUs (t : TState) : (s.setTState t).intervalUs = s.intervalUs := rfl
@[simp] theorem setTState_trigUv (t : TState) : (s.setTState t).trigUv = s.trigUv := rfl
@[simp] theorem setTState_probeW (t : TState) : (s.setTState t).probeW = s.probeW := rfl
@[simp] theorem setTState_busy (t : TState) : (s.setTState t).busy = s.busy := rfl
@[simp] theorem setTState_done (t : TState) : (s.setTState t).done = s.done := rfl
@[simp] theorem setTState_tstate (t : TState) : (s.setTState t).tstate = t := rfl
@[simp] theorem setTState_ie (t : TState) : (s.setTState t).ie = s.ie := rfl
@[simp] theorem setTState_err (t : TState) : (s.setTState t).err = s.err := rfl
@[simp] theorem setTState_attempts (t : TState) : (s.setTState t).attempts = s.attempts := rfl
@[simp] theorem setTState_trigLevel (t : TState) : (s.setTState t).trigLevel = s.trigLevel := rfl
@[simp] theorem setTState_maxcyc (t : TState) : (s.setTState t).maxcyc = s.maxcyc := rfl
@[simp] theorem setTState_buf (t : TState) : (s.setTState t).buf = s.buf := rfl
@[simp] theorem setTState_ph (t : TState) : (s.setTState t).ph = s.ph := rfl
@[simp] theorem setTState_opc (t : TState) : (s.setTState t).opc = s.opc := rfl
@[simp] theorem setTState_n (t : TState) : (s.setTState t).n = s.n := rfl
@[simp] theorem setTState_idx (t : TState) : (s.setTState t).idx = s.idx := rfl
@[simp] theorem setTState_i (t : TState) : (s.setTState t).i = s.i := rfl
@[simp] theorem setTState_j (t : TState) : (s.setTState t).j = s.j := rfl
@[simp] theorem setTState_pb (t : TState) : (s.setTState t).pb = s.pb := rfl
@[simp] theorem setTState_pa (t : TState) : (s.setTState t).pa = s.pa := rfl
@[simp] theorem setTState_t0 (t : TState) : (s.setTState t).t0 = s.t0 := rfl
@[simp] theorem setTState_resetAsserted (t : TState) : (s.setTState t).resetAsserted = s.resetAsserted := rfl
@[simp] theorem setTState_adc (t : TState) : (s.setTState t).adc = s.adc := rfl
@[simp] theorem setTState_now (t : TState) : (s.setTState t).now = s.now := rfl
@[simp] theorem setTState_turns (t : TState) : (s.setTState t).turns = s.turns := rfl
@[simp] theorem setTState_unspecDraws (t : TState) : (s.setTState t).unspecDraws = s.unspecDraws := rfl
@[simp] theorem setTState_script (t : TState) : (s.setTState t).script = s.script := rfl
@[simp] theorem setTState_reads (t : TState) : (s.setTState t).reads = s.reads := rfl
@[simp] theorem setTState_pacedUs (t : TState) : (s.setTState t).pacedUs = s.pacedUs := rfl

/-! ### searchInit -/

@[simp] theorem searchInit_scaleMv : (s.searchInit).scaleMv = s.scaleMv := rfl
@[simp] theorem searchInit_atten : (s.searchInit).atten = s.atten := rfl
@[simp] theorem searchInit_intervalUs : (s.searchInit).intervalUs = s.intervalUs := rfl
@[simp] theorem searchInit_trigUv : (s.searchInit).trigUv = s.trigUv := rfl
@[simp] theorem searchInit_probeW : (s.searchInit).probeW = s.probeW := rfl
@[simp] theorem searchInit_busy : (s.searchInit).busy = s.busy := rfl
@[simp] theorem searchInit_done : (s.searchInit).done = s.done := rfl
@[simp] theorem searchInit_tstate : (s.searchInit).tstate = .armedBelow := rfl
@[simp] theorem searchInit_ie : (s.searchInit).ie = s.ie := rfl
@[simp] theorem searchInit_err : (s.searchInit).err = s.err := rfl
@[simp] theorem searchInit_attempts : (s.searchInit).attempts = 0 := rfl
@[simp] theorem searchInit_trigLevel : (s.searchInit).trigLevel = s.levelNow := rfl
@[simp] theorem searchInit_maxcyc : (s.searchInit).maxcyc = s.maxcyc := rfl
@[simp] theorem searchInit_buf : (s.searchInit).buf = s.buf := rfl
@[simp] theorem searchInit_ph : (s.searchInit).ph = s.ph := rfl
@[simp] theorem searchInit_opc : (s.searchInit).opc = s.opc := rfl
@[simp] theorem searchInit_n : (s.searchInit).n = s.n := rfl
@[simp] theorem searchInit_idx : (s.searchInit).idx = s.idx := rfl
@[simp] theorem searchInit_i : (s.searchInit).i = s.i := rfl
@[simp] theorem searchInit_j : (s.searchInit).j = s.j := rfl
@[simp] theorem searchInit_pb : (s.searchInit).pb = s.pb := rfl
@[simp] theorem searchInit_pa : (s.searchInit).pa = s.pa := rfl
@[simp] theorem searchInit_t0 : (s.searchInit).t0 = s.t0 := rfl
@[simp] theorem searchInit_resetAsserted : (s.searchInit).resetAsserted = s.resetAsserted := rfl
@[simp] theorem searchInit_adc : (s.searchInit).adc = s.adc := rfl
@[simp] theorem searchInit_now : (s.searchInit).now = s.now := rfl
@[simp] theorem searchInit_turns : (s.searchInit).turns = s.turns := rfl
@[simp] theorem searchInit_unspecDraws : (s.searchInit).unspecDraws = s.unspecDraws := rfl
@[simp] theorem searchInit_script : (s.searchInit).script = s.script := rfl
@[simp] theorem searchInit_reads : (s.searchInit).reads = s.reads := rfl
@[simp] theorem searchInit_pacedUs : (s.searchInit).pacedUs = s.pacedUs := rfl

/-! ### afterPacing -/

@[simp] theorem afterPacing_scaleMv : (s.afterPacing).scaleMv = s.scaleMv := rfl
@[simp] theorem afterPacing_atten : (s.afterPacing).atten = s.atten := rfl
@[simp] theorem afterPacing_intervalUs : (s.afterPacing).intervalUs = s.intervalUs := rfl
@[simp] theorem afterPacing_trigUv : (s.afterPacing).trigUv = s.trigUv := rfl
@[simp] theorem afterPacing_probeW : (s.afterPacing).probeW = s.probeW := rfl
@[simp] theorem afterPacing_busy : (s.afterPacing).busy = s.busy := rfl
@[simp] theorem afterPacing_done : (s.afterPacing).done = s.done := rfl
@[simp] theorem afterPacing_tstate : (s.afterPacing).tstate = s.tstate := rfl
@[simp] theorem afterPacing_ie : (s.afterPacing).ie = s.ie := rfl
@[simp] theorem afterPacing_err : (s.afterPacing).err = s.err := rfl
@[simp] theorem afterPacing_attempts : (s.afterPacing).attempts = s.attempts := rfl
@[simp] theorem afterPacing_trigLevel : (s.afterPacing).trigLevel = s.trigLevel := rfl
@[simp] theorem afterPacing_maxcyc : (s.afterPacing).maxcyc = s.maxcyc := rfl
@[simp] theorem afterPacing_buf : (s.afterPacing).buf = s.buf := rfl
@[simp] theorem afterPacing_ph : (s.afterPacing).ph = s.ph := rfl
@[simp] theorem afterPacing_opc : (s.afterPacing).opc = s.opc := rfl
@[simp] theorem afterPacing_n : (s.afterPacing).n = s.n := rfl
@[simp] theorem afterPacing_idx : (s.afterPacing).idx = s.idx := rfl
@[simp] theorem afterPacing_i : (s.afterPacing).i = s.i := rfl
@[simp] theorem afterPacing_j : (s.afterPacing).j = s.j := rfl
@[simp] theorem afterPacing_pb : (s.afterPacing).pb = s.pb := rfl
@[simp] theorem afterPacing_pa : (s.afterPacing).pa = s.pa := rfl
@[simp] theorem afterPacing_t0 : (s.afterPacing).t0 = s.timeStamp 0 := rfl
@[simp] theorem afterPacing_resetAsserted : (s.afterPacing).resetAsserted = s.resetAsserted := rfl
@[simp] theorem afterPacing_adc : (s.afterPacing).adc = s.adc.skip 1 := rfl
@[simp] theorem afterPacing_now : (s.afterPacing).now = s.now.skip 2 := rfl
@[simp] theorem afterPacing_turns : (s.afterPacing).turns = s.turns := rfl
@[simp] theorem afterPacing_unspecDraws : (s.afterPacing).unspecDraws = s.unspecDraws := rfl
@[simp] theorem afterPacing_script : (s.afterPacing).script = s.script := rfl
@[simp] theorem afterPacing_reads : (s.afterPacing).reads = s.reads := rfl
@[simp] theorem afterPacing_pacedUs : (s.afterPacing).pacedUs = s.pacedUs + ((s.timeStamp 1 - s.timeStamp 0).toNat + (pacingDelay s.intervalUs (s.timeStamp 1 - s.timeStamp 0)).toNat) := rfl

/-! ### resetBlock -/

@[simp] theorem resetBlock_scaleMv : (s.resetBlock).scaleMv = State.reset.scaleMv := rfl
@[simp] theorem resetBlock_atten : (s.resetBlock).atten = State.reset.atten := rfl
@[simp] theorem resetBlock_intervalUs : (s.resetBlock).intervalUs = State.reset.intervalUs := rfl
@[simp] theorem resetBlock_trigUv : (s.resetBlock).trigUv = State.reset.trigUv := rfl
@[simp] theorem resetBlock_probeW : (s.resetBlock).probeW = State.reset.probeW := rfl
@[simp] theorem resetBlock_busy : (s.resetBlock).busy = State.reset.busy := rfl
@[simp] theorem resetBlock_done : (s.resetBlock).done = State.reset.done := rfl
@[simp] theorem resetBlock_tstate : (s.resetBlock).tstate = State.reset.tstate := rfl
@[simp] theorem resetBlock_ie : (s.resetBlock).ie = State.reset.ie := rfl
@[simp] theorem resetBlock_err : (s.resetBlock).err = State.reset.err := rfl
@[simp] theorem resetBlock_attempts : (s.resetBlock).attempts = State.reset.attempts := rfl
@[simp] theorem resetBlock_trigLevel : (s.resetBlock).trigLevel = State.reset.trigLevel := rfl
@[simp] theorem resetBlock_maxcyc : (s.resetBlock).maxcyc = s.maxcyc := rfl
@[simp] theorem resetBlock_buf : (s.resetBlock).buf = State.reset.buf := rfl
@[simp] theorem resetBlock_ph : (s.resetBlock).ph = State.reset.ph := rfl
@[simp] theorem resetBlock_opc : (s.resetBlock).opc = State.reset.opc := rfl
@[simp] theorem resetBlock_n : (s.resetBlock).n = State.reset.n := rfl
@[simp] theorem resetBlock_idx : (s.resetBlock).idx = State.reset.idx := rfl
@[simp] theorem resetBlock_i : (s.resetBlock).i = State.reset.i := rfl
@[simp] theorem resetBlock_j : (s.resetBlock).j = State.reset.j := rfl
@[simp] theorem resetBlock_pb : (s.resetBlock).pb = State.reset.pb := rfl
@[simp] theorem resetBlock_pa : (s.resetBlock).pa = State.reset.pa := rfl
@[simp] theorem resetBlock_t0 : (s.resetBlock).t0 = State.reset.t0 := rfl
@[simp] theorem resetBlock_resetAsserted : (s.resetBlock).resetAsserted = s.resetAsserted := rfl
@[simp] theorem resetBlock_adc : (s.resetBlock).adc = s.adc := rfl
@[simp] theorem resetBlock_now : (s.resetBlock).now = s.now := rfl
@[simp] theorem resetBlock_turns : (s.resetBlock).turns = s.turns := rfl
@[simp] theorem resetBlock_unspecDraws : (s.resetBlock).unspecDraws = s.unspecDraws := rfl
@[simp] theorem resetBlock_script : (s.resetBlock).script = s.script := rfl
@[simp] theorem resetBlock_reads : (s.resetBlock).reads = s.reads := rfl
@[simp] theorem resetBlock_pacedUs : (s.resetBlock).pacedUs = s.pacedUs := rfl

/-! ### holdReset and driveReset -/

theorem holdReset_released (h : s.resetAsserted = false) : s.holdReset = s := by simp [State.holdReset, h]
theorem holdReset_asserted (h : s.resetAsserted = true) : s.holdReset = s.resetBlock := by simp [State.holdReset, h]
@[simp] theorem holdReset_resetAsserted : s.holdReset.resetAsserted = s.resetAsserted := by
  unfold State.holdReset; split <;> rfl
@[simp] theorem holdReset_maxcyc : s.holdReset.maxcyc = s.maxcyc := by unfold State.holdReset; split <;> rfl
@[simp] theorem holdReset_script : s.holdReset.script = s.script := by unfold State.holdReset; split <;> rfl
@[simp] theorem holdReset_reads : s.holdReset.reads = s.reads := by unfold State.holdReset; split <;> rfl
@[simp] theorem holdReset_turns : s.holdReset.turns = s.turns := by unfold State.holdReset; split <;> rfl
theorem driveReset_asserted : s.driveReset true = { s.resetBlock with resetAsserted := true } := rfl
theorem driveReset_released (h : s.resetAsserted = false) : s.driveReset false = s := by
  cases s; simp_all [State.driveReset]
theorem driveReset_release (h : s.resetAsserted = true) :
    s.driveReset false = { s.resetBlock with resetAsserted := false } := by simp [State.driveReset, h]
@[simp] theorem driveReset_resetAsserted (b : Bool) : (s.driveReset b).resetAsserted = b := rfl
@[simp] theorem driveReset_maxcyc (b : Bool) : (s.driveReset b).maxcyc = s.maxcyc := by
  unfold State.driveReset; split <;> rfl
@[simp] theorem driveReset_script (b : Bool) : (s.driveReset b).script = s.script := by
  unfold State.driveReset; split <;> rfl
@[simp] theorem driveReset_reads (b : Bool) : (s.driveReset b).reads = s.reads := by
  unfold State.driveReset; split <;> rfl
@[simp] theorem driveReset_turns (b : Bool) : (s.driveReset b).turns = s.turns := by
  unfold State.driveReset; split <;> rfl

end Sys2Proof.Machine.State
end

