-- ==== Sys2Proof/Laws/Sampling.lean ====
section
/-! SUPPORT. The quantizer, the oracles and the sample primitives: one lemma for each. -/

namespace Sys2Proof.Machine

/-! ### The quantizer -/

theorem quantRaw_def (uv mv : Int) : quantRaw uv mv = (uv * 16).tdiv (mv * 1000) := rfl

/-- Truncation is symmetric about zero. -/
theorem quantRaw_neg (uv mv : Int) : quantRaw (-uv) mv = -quantRaw uv mv := by
  rw [quantRaw_def, quantRaw_def, Int.neg_mul, Int.neg_tdiv]

/-- For readings not below zero the quotient is the floor. -/
theorem quantRaw_of_nonneg {uv mv : Int} (h : 0 ≤ uv) : quantRaw uv mv = uv * 16 / (mv * 1000) := by
  rw [quantRaw_def]
  exact Int.tdiv_eq_ediv_of_nonneg (by omega)

/-- A Sample is the quotient brought into 0 to 255. -/
theorem quant_toNat (uv mv : Int) : ((quant uv mv).toNat : Int) = max 0 (min 255 (quantRaw uv mv)) := by
  unfold quant clampByte
  split
  · next h => simp; omega
  · split
    · next h => simp; omega
    · next h1 h2 =>
      rw [BitVec.toNat_ofInt]
      omega

/-! ### The oracles -/

section
variable {α : Type} (free : Nat → α) (d : Draws α)

@[simp] theorem Draws.skip_zero : d.skip 0 = d := rfl

@[simp] theorem Draws.skip_skip (a b : Nat) : (d.skip a).skip b = d.skip (a + b) := by
  simp [Draws.skip, Nat.add_assoc]

@[simp] theorem Draws.value_cons (v : α) (l : List α) (k : Nat) : Draws.value free ⟨v :: l, k⟩ = v := rfl

@[simp] theorem Draws.skip_drawn (k : Nat) : (d.skip k).drawn = d.drawn + k := rfl

end

variable {s : State}

@[simp] theorem reading_afterReading (k : Nat) : s.afterReading.reading k = s.reading (k + 1) := by
  simp [State.reading, Nat.add_comm]

@[simp] theorem reading_afterPacing (k : Nat) : s.afterPacing.reading k = s.reading (k + 1) := by
  simp [State.reading, Nat.add_comm]

/-! ### The primitives -/

@[simp] theorem sample1_fst : (sample1 s).1 = s.quantize (s.reading 0) := rfl

@[simp] theorem sample1_snd : (sample1 s).2 = s.afterReading := rfl

/-- Pacing does not change the value (40_sampling.md R119). -/
@[simp] theorem pacedSample_fst : (pacedSample s).1 = s.quantize (s.reading 0) := by
  unfold pacedSample
  split <;> rfl

theorem pacedSample_snd :
    (pacedSample s).2 = if s.intervalUs = 0 then s.afterReading else s.afterPacing := by
  unfold pacedSample
  split <;> rfl

/-- All that a paced sample changes: `T0`, the oracles and the time that has passed. -/
theorem pacedSample_frame :
    ∃ t0 now us, (pacedSample s).2 = { s with t0 := t0, adc := s.adc.skip 1, now := now, pacedUs := us } := by
  rw [pacedSample_snd]
  split
  · exact ⟨s.t0, s.now, s.pacedUs, rfl⟩
  · exact ⟨_, _, _, rfl⟩

/-- The elapsed time and the wait together: the larger of the two (70_reset_and_hazards.md R267). -/
theorem elapsed_add_delay (interval e : Word) :
    e.toNat + (pacingDelay interval e).toNat = max e.toNat interval.toNat := by
  unfold pacingDelay
  split
  · next h => have : interval.toNat ≤ e.toNat := h; simp; omega
  · next h =>
    have : ¬interval.toNat ≤ e.toNat := h
    rw [BitVec.toNat_sub_of_le (by bv_omega)]
    omega

/-- A sample is taken exactly where there is a scale. -/
theorem withSample_next {p : State → Byte × State} {f : Byte → State → State} {t : State} :
    withSample p s f = .next t ↔ s.scaleMv ≠ 0 ∧ t = f (p s).1 (p s).2 := by
  unfold withSample
  split
  · next h => simp [h]
  · next h => exact ⟨fun e => ⟨h, by injection e with e; exact e.symm⟩, fun e => by rw [e.2]⟩

theorem withSample_of_scale {p : State → Byte × State} {f : Byte → State → State} (h : s.scaleMv ≠ 0) :
    withSample p s f = .next (f (p s).1 (p s).2) := withSample_next.2 ⟨h, rfl⟩

/-- The quantizer depends on the state only through `SCALE_MV`. -/
theorem quantize_congr {t : State} (h : t.scaleMv = s.scaleMv) (raw : Word) :
    t.quantize raw = s.quantize raw := by
  simp [State.quantize, h]

end Sys2Proof.Machine
end

