-- ==== Sys2Proof/Laws/Engine.lean ====
section
/-! SUPPORT. What each engine step can do: one inversion lemma a step, with the guards, so that no later proof unfolds a step. -/

namespace Sys2Proof.Machine

variable {s t : State}

/-- One cell captured, or the capture is over (41_acquisition.md R131). -/
theorem captLoopStep_next : captLoopStep s = .next t ↔
    (s.i < s.n ∧ s.i.toNat < 128 ∧ s.scaleMv ≠ 0 ∧
      t = storeCaptured (s.quantize (s.reading 0)) (pacedSample s).2) ∨
    (¬s.i < s.n ∧ t = s.finish) := by
  unfold captLoopStep
  split
  · next h =>
    split
    · next h2 => simp [withSample_next, h, h2]
    · next h2 => simp [h, h2]
  · next h => simp [h, eq_comm (a := t)]

/-- One sample stored at `IDX` (41_acquisition.md R134). -/
theorem putOneStep_next : putOneStep s = .next t ↔
    s.scaleMv ≠ 0 ∧ t = (s.afterReading.setCell s.idx.toNat (s.quantize (s.reading 0))).finish := by
  simp [putOneStep, withSample_next]

/-- One sample appended (43_buffer.md R180). -/
theorem rollOneStep_next : rollOneStep s = .next t ↔
    s.scaleMv ≠ 0 ∧ t = (s.afterReading.shiftAppend (s.quantize (s.reading 0))).finish := by
  simp [rollOneStep, withSample_next]

/-- All cells zeroed (43_buffer.md R183). -/
theorem clrAllStep_next : clrAllStep s = .next t ↔ t = s.clearBuf.finish := by
  simp [clrAllStep, eq_comm (a := t)]

/-- The budget test (42_trigger.md R153). -/
theorem trigCheckStep_next : trigCheckStep s = .next t ↔
    (s.attempts.toNat = s.maxcyc.cycles ∧ t = (s.setTState .gaveUp).afterSearch) ∨
    (s.attempts.toNat ≠ s.maxcyc.cycles ∧ t = s.startProbe) := by
  unfold trigCheckStep
  split <;> simp_all [eq_comm (a := t)]

/-- The evaluation of a complete probe (42_trigger.md R155). -/
theorem evaluateProbe_next : evaluateProbe s = .next t ↔
    (s.tstate = .armedBelow ∧
      t = { s.countAttempt.setTState (if s.pb then .armedAbove else .armedBelow) with ph := .trigCheck }) ∨
    (s.tstate = .armedAbove ∧ s.pa = true ∧ t = (s.countAttempt.setTState .fired).afterSearch) ∨
    (s.tstate = .armedAbove ∧ s.pa = false ∧ t = { s.countAttempt with ph := .trigCheck }) := by
  unfold evaluateProbe
  split
  · next h => simp [h, eq_comm (a := t)]
  · next h => cases hp : s.pa <;> simp [h, eq_comm (a := t)]
  · next h => simp [h]
  · next h => simp [h]

/-- One probe sample, or the evaluation (42_trigger.md R154, R155). -/
theorem trigProbeStep_next : trigProbeStep s = .next t ↔
    (s.j < s.probeW ∧ s.scaleMv ≠ 0 ∧ t = (pacedSample s).2.foldProbe (s.quantize (s.reading 0))) ∨
    (s.j = s.probeW ∧ evaluateProbe s = .next t) := by
  unfold trigProbeStep
  split
  · next h =>
    have : s.j ≠ s.probeW := fun e => by simp [e] at h
    simp [withSample_next, h, this]
  · next h =>
    split
    · next h2 => simp [h2]
    · next h2 => simp [h, h2]

/-- The two ends of a search (42_trigger.md R156). -/
theorem afterSearch_acq (h : s.opc = .acq) : s.afterSearch = { s with i := 0, ph := .captLoop } := by
  simp [State.afterSearch, h]

theorem afterSearch_trig (h : s.opc = .trig) : s.afterSearch = s.finish := by
  simp [State.afterSearch, h]

/-- No engine step is a refusal. -/
theorem engineStep_not_refused (r : Refusal) : engineStep s ≠ .refused r := by
  unfold engineStep
  split <;>
    simp [trigCheckStep, trigProbeStep, captLoopStep, putOneStep, rollOneStep, clrAllStep, withSample, evaluateProbe] <;>
    (repeat' split) <;> simp

/-! ### Runs of the engine -/

theorem engineRun_idle (k : Nat) (h : s.ph = .idle) : engineRun k s = .next s := by
  cases k <;> simp [engineRun, h]

theorem engineRun_succ {k : Nat} (h : s.ph ≠ .idle) (e : engineStep s = .next t) :
    engineRun (k + 1) s = engineRun k t := by
  simp [engineRun, h, e]

/-- Runs compose. -/
theorem engineRun_add {a b : Nat} {u : State} (h : engineRun a s = .next t) (h2 : engineRun b t = .next u) :
    engineRun (a + b) s = .next u := by
  induction a generalizing s with
  | zero =>
    simp [engineRun] at h
    subst h
    simpa using h2
  | succ a ih =>
    by_cases hp : s.ph = .idle
    · rw [engineRun_idle _ hp] at h
      injection h with h
      subst h
      rw [engineRun_idle _ hp] at h2
      injection h2 with h2
      rw [engineRun_idle _ hp, h2]
    · rw [engineRun, if_neg hp] at h
      split at h
      · next v hv =>
        rw [show a + 1 + b = (a + b) + 1 by omega, engineRun_succ hp hv]
        exact ih h
      · cases h
      · cases h

/-- A run that has ended stays ended with more steps allowed. -/
theorem engineRun_mono {a b : Nat} (h : engineRun a s = .next t) (hi : t.ph = .idle) (hab : a ≤ b) :
    engineRun b s = .next t := by
  have := engineRun_add h (engineRun_idle (b - a) hi)
  rwa [show a + (b - a) = b by omega] at this

end Sys2Proof.Machine
end

