-- ==== Sys2Proof/Laws/Issue.lean ====
section
/-! SUPPORT. What a command written to `CMD` does: `exec` in one equation, the cases of the checks at issue, and each command's acceptance. -/

namespace Sys2Proof.Machine

/-- Every command but `CLR` takes samples (40_sampling.md R120). -/
def samples : Instr → Bool
  | .capt _ => true
  | .put _ => true
  | .roll => true
  | .trig => true
  | .acq _ => true
  | .clr => false

/-- The state after acceptance (10_state.md R45). -/
def acceptOf : Instr → State → State
  | .capt n => acceptCapt n
  | .put k => acceptPut k
  | .roll => State.accept .roll .rollOne
  | .trig => acceptTrig
  | .acq n => acceptAcq n
  | .clr => State.accept .clr .clrAll

theorem exec_eq (i : Instr) (s : State) :
    exec i s = .next (s.issue i.wellFormed (samples i) (acceptOf i)) := by
  cases i <;> rfl

/-- A command written while busy is refused with `BSY`. -/
theorem exec_busy {i : Instr} {s : State} (h : s.busy = true) : exec i s = .next (s.raise .bsy) := by
  simp [exec_eq, State.issue, h]

/-- A command with an operand out of range is refused with `ARG`. -/
theorem exec_outOfRange {i : Instr} {s : State} (h : s.busy = false) (hw : i.wellFormed = false) :
    exec i s = .next (s.raise .arg) := by
  simp [exec_eq, State.issue, h, hw]

/-- A sampling command without a scale is refused with `CFG`. -/
theorem exec_unconfigured {i : Instr} {s : State} (h : s.busy = false) (hw : i.wellFormed = true)
    (hs : samples i = true) (h0 : s.scaleMv = 0) : exec i s = .next (s.raise .cfg) := by
  simp [exec_eq, State.issue, h, hw, hs, h0]

/-- Otherwise the command is accepted. -/
theorem exec_accepted {i : Instr} {s : State} (h : s.busy = false) (hw : i.wellFormed = true)
    (hs : samples i = true → s.scaleMv ≠ 0) : exec i s = .next (acceptOf i s) := by
  cases hsi : samples i
  · simp [exec_eq, State.issue, h, hw, hsi]
  · have h0 : (s.scaleMv == 0) = false := by simpa using hs hsi
    simp only [exec_eq, State.issue, h, hw, hsi, h0]
    rfl

/-- All that a command written to `CMD` can do. -/
theorem exec_cases {i : Instr} {s : State} {o : Outcome} (h : exec i s = o) :
    (∃ e, o = .next (s.raise e)) ∨
    (s.busy = false ∧ i.wellFormed = true ∧ (samples i = true → s.scaleMv ≠ 0) ∧
      o = .next (acceptOf i s)) := by
  subst h
  by_cases hb : s.busy = true
  · exact .inl ⟨_, exec_busy hb⟩
  rw [Bool.not_eq_true] at hb
  by_cases hw : i.wellFormed = true
  · by_cases hs : samples i = true → s.scaleMv ≠ 0
    · exact .inr ⟨hb, hw, hs, exec_accepted hb hw hs⟩
    · push Not at hs
      exact .inl ⟨_, exec_unconfigured hb hw hs.1 hs.2⟩
  · rw [Bool.not_eq_true] at hw
    exact .inl ⟨_, exec_outOfRange hb hw⟩

end Sys2Proof.Machine
end

