-- ==== Sys2Proof/Laws/Bus.lean ====
section
/-! SUPPORT. What a host access and a step can do: the inversion lemmas that every proof over steps starts from. -/

namespace Sys2Proof.Machine

variable {s t : State}

/-- A read changes nothing but the model's record of it. -/
theorem readReg_frame (r : Reg) : ∃ u, (readReg r s).2 = { s with unspecDraws := u } := by
  unfold readReg
  repeat' split
  all_goals exact ⟨_, rfl⟩

theorem readBuf_frame (k : Nat) (w : Width) : ∃ u, (readBuf k w s).2 = { s with unspecDraws := u } := by
  unfold readBuf
  repeat' split
  all_goals exact ⟨_, rfl⟩

theorem readValue_frame (o : Byte) (w : Width) : ∃ u, (readValue o w s).2 = { s with unspecDraws := u } := by
  unfold readValue
  split
  · exact readReg_frame _
  · exact readBuf_frame _ _

/-- All that a host access can do, refused reads being recorded too. -/
inductive AccessEffect (s : State) : State → Prop where
  /-- A legal read (20_memory.md R63). -/
  | read (u : Nat) (r : List BusRead) : AccessEffect s { s with unspecDraws := u, reads := r }
  /-- A refused write (60_exceptions.md R221). -/
  | refusedWrite (e : ErrBit) : AccessEffect s (s.raise e)
  /-- A refused read. -/
  | refusedRead (r : List BusRead) : AccessEffect s { s.raise .addr with reads := r }
  /-- A command is accepted (10_state.md R45). -/
  | accepted (i : Instr) (hb : s.busy = false) (hw : i.wellFormed = true)
      (hs : samples i = true → s.scaleMv ≠ 0) : AccessEffect s (acceptOf i s)
  /-- `DONE` acknowledged (10_state.md R29). -/
  | ack : AccessEffect s s.ackDone
  /-- Error bits cleared (10_state.md R31). -/
  | cleared (m : BitVec 5) : AccessEffect s (s.clearErr m)
  /-- `CTRL` written (10_state.md R30). -/
  | control (b : Bool) : AccessEffect s { s with ie := b }
  /-- A configuration register written (10_state.md R27). -/
  | scale (v : BitVec 16) (hb : s.busy = false) (hv : v ≠ 0) : AccessEffect s { s with scaleMv := v }
  | attenuation (v : Byte) (hb : s.busy = false) : AccessEffect s { s with atten := v }
  | interval (v : Word) (hb : s.busy = false) : AccessEffect s { s with intervalUs := v }
  | trigger (v : Word) (hb : s.busy = false) : AccessEffect s { s with trigUv := v }
  | probe (v : Byte) (hb : s.busy = false) (hv : 1 ≤ v.toNat ∧ v.toNat ≤ 128) :
      AccessEffect s { s with probeW := v }
  /-- A write that changes nothing: `STATUS` with bit 1 clear. -/
  | nothing : AccessEffect s s

theorem writeConfig_cases {legal : Bool} {store : State → State} :
    (s.busy = false ∧ legal = true ∧ s.writeConfig legal store = store s) ∨
      ∃ e, s.writeConfig legal store = s.raise e := by
  unfold State.writeConfig
  cases hb : s.busy <;> cases hl : legal <;> simp
  · exact ⟨_, rfl⟩
  · exact ⟨_, rfl⟩
  · exact ⟨_, rfl⟩

theorem scaleLegal_iff {v : Word} : scaleLegal v = true ↔ 1 ≤ v.toNat ∧ v.toNat ≤ 65535 := by simp [scaleLegal]

theorem probeLegal_iff {v : Word} : probeLegal v = true ↔ 1 ≤ v.toNat ∧ v.toNat ≤ 128 := by simp [probeLegal]

/-- A write of `CMD` is a refusal or an acceptance. -/
theorem writeCmd_effect {w : Word} (h : writeCmd w s = .next t) : AccessEffect s t := by
  unfold writeCmd at h
  split at h
  · injection h with h
    exact h ▸ .refusedWrite _
  · split at h
    · injection h with h
      exact h ▸ .refusedWrite _
    · obtain ⟨e, he⟩ | ⟨hb, hw, hs, he⟩ := exec_cases h
      · injection he with he
        exact he ▸ .refusedWrite _
      · injection he with he
        exact he ▸ .accepted _ hb hw hs

theorem writeReg_effect {r : Reg} {v : Word} (h : writeReg r v s = .next t) : AccessEffect s t := by
  cases r <;> simp only [writeReg] at h
  case cmd => exact writeCmd_effect h
  all_goals injection h with h; subst h
  case status => unfold writeStatus; split; exacts [.ack, .nothing]
  case ctrl => unfold writeCtrl; split; exacts [.control _, .refusedWrite _]
  case err => exact .cleared _
  case scaleMv =>
    obtain ⟨hb, hl, e⟩ | ⟨e, he⟩ := writeConfig_cases (s := s) (legal := scaleLegal v)
      (store := fun t => { t with scaleMv := v.setWidth 16 })
    · rw [e]
      rw [scaleLegal_iff] at hl
      exact .scale _ hb fun h0 => by
        have := congrArg BitVec.toNat h0
        simp at this
        omega
    · exact he ▸ .refusedWrite _
  case atten =>
    obtain ⟨hb, -, e⟩ | ⟨e, he⟩ := writeConfig_cases (s := s) (legal := attenLegal v)
      (store := fun t => { t with atten := v.setWidth 8 })
    · exact e ▸ .attenuation _ hb
    · exact he ▸ .refusedWrite _
  case intervalUs =>
    obtain ⟨hb, -, e⟩ | ⟨e, he⟩ := writeConfig_cases (s := s) (legal := true)
      (store := fun t => { t with intervalUs := v })
    · exact e ▸ .interval _ hb
    · exact he ▸ .refusedWrite _
  case trigUv =>
    obtain ⟨hb, -, e⟩ | ⟨e, he⟩ := writeConfig_cases (s := s) (legal := true)
      (store := fun t => { t with trigUv := v })
    · exact e ▸ .trigger _ hb
    · exact he ▸ .refusedWrite _
  case probeW =>
    obtain ⟨hb, hl, e⟩ | ⟨e, he⟩ := writeConfig_cases (s := s) (legal := probeLegal v)
      (store := fun t => { t with probeW := v.setWidth 8 })
    · rw [e]
      rw [probeLegal_iff] at hl
      exact .probe _ hb (by simp; omega)
    · exact he ▸ .refusedWrite _
  all_goals exact .nothing

/-- All that a host access can do (20_memory.md R62 to R68). -/
theorem performAccess_effect {a : Access} (h : performAccess a s = .next t) : AccessEffect s t := by
  unfold performAccess at h
  split at h
  · split at h <;> injection h with h <;> subst h
    · exact .refusedRead _
    · exact .refusedWrite _
  · split at h
    · injection h with h
      subst h
      obtain ⟨u, hu⟩ := readValue_frame (s := s) ‹Byte› ‹Width›
      rw [hu]
      exact .read u _
    · split at h
      · exact writeReg_effect h
      · injection h with h
        exact h ▸ .nothing

/-- A poll of `WAIT` only reads, and may end the statement. -/
theorem waitStep_frame : ∃ u r, waitStep s = { s with unspecDraws := u, reads := r } ∨
    waitStep s = { s.popStmt with unspecDraws := u, reads := r } := by
  unfold waitStep
  obtain ⟨u, hu⟩ := readReg_frame (s := s) .status
  simp only [hu]
  split
  · exact ⟨_, _, .inl rfl⟩
  · exact ⟨_, _, .inr rfl⟩

/-- What no host access changes: `MAXCYC`, the reset input's level, the oracles, the turns, the statements to come. -/
theorem AccessEffect.environment (h : AccessEffect s t) :
    t.maxcyc = s.maxcyc ∧ t.resetAsserted = s.resetAsserted ∧ t.adc = s.adc ∧ t.now = s.now ∧ t.turns = s.turns ∧
      t.script = s.script ∧ t.pacedUs = s.pacedUs := by
  cases h with
  | accepted i => cases i <;> exact ⟨rfl, rfl, rfl, rfl, rfl, rfl, rfl⟩
  | _ => exact ⟨rfl, rfl, rfl, rfl, rfl, rfl, rfl⟩

/-- While the reset input is asserted an access leaves nothing behind but the model's record of it
(70_reset_and_hazards.md R250). -/
theorem AccessEffect.held (h : AccessEffect s t) (hs : s.resetBlock = s) :
    t.resetBlock = { s with unspecDraws := t.unspecDraws, reads := t.reads } := by
  obtain ⟨h1, h2, h3, h4, h5, h6, h7⟩ := h.environment
  rw [← hs]
  simp only [State.resetBlock, h1, h2, h3, h4, h5, h6, h7]

/-- All that a step of the outside world can do. -/
theorem hostStep_cases (h : hostStep s = .next t) :
    (s.script = [] ∧ t = s) ∨
    (∃ a rest v, s.script = .access a :: rest ∧ performAccess a s.popStmt = .next v ∧ AccessEffect s.popStmt v ∧
      t = v.holdReset) ∨
    (∃ rest, s.script = .wait :: rest ∧ t = (waitStep s).holdReset) ∨
    (∃ level rest, s.script = .resetInput level :: rest ∧ t = s.popStmt.driveReset level) := by
  unfold hostStep at h
  split at h
  · next e => injection h with h; exact .inl ⟨e, h.symm⟩
  · next a rest e =>
    cases hv : performAccess a s.popStmt with
    | next v =>
      rw [hv] at h
      injection h with h
      exact .inr (.inl ⟨a, rest, v, e, hv, performAccess_effect hv, h.symm⟩)
    | fault r => rw [hv] at h; cases h
    | refused r => rw [hv] at h; cases h
  · next rest e => injection h with h; exact .inr (.inr (.inl ⟨rest, e, h.symm⟩))
  · next level rest e => injection h with h; exact .inr (.inr (.inr ⟨level, rest, e, h.symm⟩))

/-- A state that is held at reset stays so, whatever the model records or takes off its list. -/
theorem holdReset_hostSide (hr : s.ResetHeld) (u : Nat) (r : List BusRead) (l : List HostStmt) :
    State.holdReset { s with unspecDraws := u, reads := r, script := l } =
      { s with unspecDraws := u, reads := r, script := l } := by
  by_cases ha : s.resetAsserted = true
  · exact (State.holdReset_asserted { s with unspecDraws := u, reads := r, script := l } ha).trans
      (congrArg (fun v : State => { v with unspecDraws := u, reads := r, script := l }) (hr ha))
  · exact State.holdReset_released { s with unspecDraws := u, reads := r, script := l } (eq_false_of_ne_true ha)

/-- The same where the state is that of reset while the reset input is asserted: a poll only reads, and an access is
performed, or leaves only the model's record of it. -/
theorem hostStep_cases_held (hr : s.ResetHeld) (h : hostStep s = .next t) :
    (s.script = [] ∧ t = s) ∨
    (∃ a rest, s.script = .access a :: rest ∧ s.resetAsserted = false ∧ AccessEffect s.popStmt t) ∨
    (∃ a rest u r, s.script = .access a :: rest ∧ s.resetAsserted = true ∧
      t = { s.popStmt with unspecDraws := u, reads := r }) ∨
    (∃ rest u r, s.script = .wait :: rest ∧
      (t = { s with unspecDraws := u, reads := r } ∨ t = { s.popStmt with unspecDraws := u, reads := r })) ∨
    (∃ level rest, s.script = .resetInput level :: rest ∧ t = s.popStmt.driveReset level) := by
  obtain h | ⟨a, rest, v, e, -, hv, rfl⟩ | ⟨rest, e, rfl⟩ | h := hostStep_cases h
  · exact .inl h
  · cases ha : s.resetAsserted with
    | false =>
      rw [State.holdReset_released _ (hv.environment.2.1.trans ha)]
      exact .inr (.inl ⟨a, rest, e, rfl, hv⟩)
    | true =>
      rw [State.holdReset_asserted _ (hv.environment.2.1.trans ha)]
      have hs : s.popStmt.resetBlock = s.popStmt := by
        conv_rhs => rw [← hr ha]
        rfl
      exact .inr (.inr (.inl ⟨a, rest, _, _, e, rfl, hv.held hs⟩))
  · obtain ⟨u, r, he | he⟩ := waitStep_frame (s := s)
    · exact .inr (.inr (.inr (.inl ⟨rest, u, r, e, .inl (by rw [he]; exact holdReset_hostSide hr u r s.script)⟩)))
    · exact .inr (.inr (.inr (.inl ⟨rest, u, r, e, .inr (by rw [he]; exact holdReset_hostSide hr u r s.script.tail)⟩)))
  · exact .inr (.inr (.inr (.inr h)))

/-- A release, and any event of an input that is asserted already, leaves the reset state it finds
(70_reset_and_hazards.md R250). -/
theorem driveReset_held (hr : s.ResetHeld) (h : level = false ∨ s.resetAsserted = true) :
    s.driveReset level = { s with resetAsserted := level } := by
  cases ha : s.resetAsserted with
  | false =>
    obtain rfl | h := h
    · rw [State.driveReset_released _ ha, ← ha]
    · rw [ha] at h; cases h
  | true =>
    unfold State.driveReset
    rw [if_pos (by simp [ha]), hr ha]

/-- A step is one agent's step, at the state with perhaps one turn used up (20_memory.md R71). -/
theorem step_cases (h : step s = .next t) :
    ∃ d, ((nextMover s).1 = .host ∧ hostStep { s with turns := d } = .next t) ∨
      ((nextMover s).1 = .engine ∧ s.ph ≠ .idle ∧ engineStep { s with turns := d } = .next t) := by
  unfold step at h
  have hm : ∃ d, (nextMover s).2 = { s with turns := d } ∧ ((nextMover s).1 = .engine → s.ph ≠ .idle) := by
    unfold nextMover
    split
    · exact ⟨s.turns, rfl, fun e => by cases e⟩
    · next hp =>
      split
      · exact ⟨s.turns, rfl, fun _ => hp⟩
      · exact ⟨_, rfl, fun _ => hp⟩
  obtain ⟨d, hd, hp⟩ := hm
  refine ⟨d, ?_⟩
  split at h
  · next u hu => rw [hu] at hd ⊢; subst hd; exact .inl ⟨rfl, h⟩
  · next u hu => rw [hu] at hd hp ⊢; subst hd; exact .inr ⟨rfl, hp rfl, h⟩

end Sys2Proof.Machine
end

