-- ==== Sys2Proof/Laws/Encoding.lean ====
section
/-! SUPPORT. The fields of a command word, as numbers. -/

namespace Sys2Proof

/-- The assembled word, as a number (30_encoding.md R97). -/
theorem assemble_toNat (opc arg : Byte) : (assemble opc arg).toNat = arg.toNat * 256 + opc.toNat := by
  have ho := opc.isLt
  have ha := arg.isLt
  simp only [assemble, BitVec.toNat_or, BitVec.toNat_shiftLeft, BitVec.toNat_setWidth]
  rw [Nat.mod_eq_of_lt (by omega : arg.toNat < 2 ^ 32), Nat.mod_eq_of_lt (by omega : opc.toNat < 2 ^ 32),
    Nat.mod_eq_of_lt (by rw [Nat.shiftLeft_eq]; omega), ← Nat.shiftLeft_add_eq_or_of_lt ho, Nat.shiftLeft_eq]

/-- The opcode field of an assembled word (30_encoding.md R90). -/
theorem opcField_assemble (opc arg : Byte) : opcField (assemble opc arg) = opc := by
  apply BitVec.eq_of_toNat_eq
  have := opc.isLt
  simp only [opcField, BitVec.extractLsb'_toNat, assemble_toNat, Nat.shiftRight_zero]
  omega

/-- The operand field of an assembled word (30_encoding.md R90). -/
theorem argField_assemble (opc arg : Byte) : argField (assemble opc arg) = arg := by
  apply BitVec.eq_of_toNat_eq
  have := opc.isLt
  have := arg.isLt
  simp only [argField, BitVec.extractLsb'_toNat, assemble_toNat, Nat.shiftRight_eq_div_pow]
  omega

/-- The upper half of an assembled word is zero (30_encoding.md R90). -/
theorem zeroField_assemble (opc arg : Byte) : zeroField (assemble opc arg) = 0 := by
  apply BitVec.eq_of_toNat_eq
  have := opc.isLt
  have := arg.isLt
  simp only [zeroField, BitVec.extractLsb'_toNat, assemble_toNat, Nat.shiftRight_eq_div_pow]
  show (arg.toNat * 256 + opc.toNat) / 2 ^ 16 % 2 ^ 16 = 0
  omega

end Sys2Proof
end

