-- ==== Sys2Proof/Laws/Memory.lean ====
section
/-! SUPPORT. The laws of the buffer's cells: what a write and a shift do to every read, and that they keep the canonical form. -/

namespace Sys2Proof.Machine.Memory

variable {m : Memory} {a b lo hi k : Nat} {v : Byte}

@[simp] theorem read_nil : read [] a = blank := rfl

@[simp] theorem wfFrom_nil : wfFrom hi lo [] = true := rfl

theorem wfFrom_cons {c : Byte} :
    wfFrom hi lo ((k, c) :: m) = true ↔ lo ≤ k ∧ k < hi ∧ c ≠ blank ∧ wfFrom hi (k + 1) m = true := by
  simp [wfFrom, and_assoc]

/-- A canonical list may start lower. -/
theorem wfFrom_mono (h : wfFrom hi b m = true) (hab : a ≤ b) : wfFrom hi a m = true := by
  cases m with
  | nil => rfl
  | cons c m =>
    obtain ⟨k, c⟩ := c
    rw [wfFrom_cons] at *
    exact ⟨by omega, h.2⟩

/-- Below its first possible offset a canonical list has no cell. -/
theorem read_below (h : wfFrom hi lo m = true) (ha : a < lo) : read m a = blank := by
  induction m generalizing lo with
  | nil => rfl
  | cons c m ih =>
    obtain ⟨k, c⟩ := c
    rw [wfFrom_cons] at h
    rw [read, if_neg (by omega)]
    exact ih h.2.2.2 (by omega)

/-- Past its end a canonical list has no cell. -/
theorem read_above (h : wfFrom hi lo m = true) (ha : hi ≤ a) : read m a = blank := by
  induction m generalizing lo with
  | nil => rfl
  | cons c m ih =>
    obtain ⟨k, c⟩ := c
    rw [wfFrom_cons] at h
    rw [read, if_neg (by omega)]
    exact ih h.2.2.2

/-- A write leaves every other offset alone; no canonical form is needed. -/
theorem read_write_other (hab : a ≠ b) : read (write m a v) b = read m b := by
  induction m with
  | nil => by_cases hv : v = blank <;> simp [write, read, hv, hab]
  | cons c m ih =>
    obtain ⟨k, c⟩ := c
    by_cases h1 : a < k
    · by_cases hv : v = blank <;> simp [write, read, h1, hv, hab]
    · by_cases h2 : a = k
      · by_cases hv : v = blank <;> simp [write, read, ← h2, hv, hab]
      · simp [write, read, h1, h2, ih]

/-- A read after a write to the same offset gives the value written. -/
theorem read_write_same (h : wfFrom hi lo m = true) : read (write m a v) a = v := by
  induction m generalizing lo with
  | nil => by_cases hv : v = blank <;> simp [write, read, hv]
  | cons c m ih =>
    obtain ⟨k, c⟩ := c
    rw [wfFrom_cons] at h
    by_cases h1 : a < k
    · by_cases hv : v = blank
      · have := read_below h.2.2.2 (show a < k + 1 by omega)
        simp [write, read, h1, hv, this, show k ≠ a by omega]
      · simp [write, read, h1, hv]
    · by_cases h2 : a = k
      · by_cases hv : v = blank
        · have := read_below h.2.2.2 (show k < k + 1 by omega)
          simp [write, h2, hv, this]
        · simp [write, read, h2, hv]
      · simp [write, read, h1, h2, show k ≠ a by omega, ih h.2.2.2]

/-- A read after a write, in one line. -/
theorem read_write (h : wfFrom hi lo m = true) :
    read (write m a v) b = if a = b then v else read m b := by
  split
  · next e => subst e; exact read_write_same h
  · next e => exact read_write_other e

/-- A write keeps the canonical form. -/
theorem wfFrom_write (h : wfFrom hi lo m = true) (h1 : lo ≤ a) (h2 : a < hi) :
    wfFrom hi lo (write m a v) = true := by
  induction m generalizing lo with
  | nil =>
    by_cases hv : v = blank
    · simp [write, hv]
    · simp [write, wfFrom_cons, hv, h1, h2]
  | cons c m ih =>
    obtain ⟨k, c⟩ := c
    have h' := h
    rw [wfFrom_cons] at h'
    by_cases h3 : a < k
    · by_cases hv : v = blank
      · simpa [write, h3, hv] using h
      · simp only [write, h3, hv, if_true, if_false, wfFrom_cons]
        exact ⟨h1, h2, hv, by omega, h'.2⟩
    · by_cases h4 : a = k
      · by_cases hv : v = blank
        · simpa [write, h4, hv] using wfFrom_mono h'.2.2.2 (by omega)
        · simp only [write, h4, hv, if_true, if_false, lt_irrefl, wfFrom_cons]
          exact ⟨h'.1, h'.2.1, hv, h'.2.2.2⟩
      · simp only [write, h3, h4, if_false, wfFrom_cons]
        exact ⟨h'.1, h'.2.1, h'.2.2.1, ih h'.2.2.2 (by omega)⟩

/-- Past `lo`, a shift moves every cell down by one. -/
theorem wfFrom_shiftDown_past (h : wfFrom hi (k + 1) m = true) (hk : lo ≤ k) :
    wfFrom hi k (shiftDown lo m) = true := by
  induction m generalizing k with
  | nil => rfl
  | cons c m ih =>
    obtain ⟨j, c⟩ := c
    rw [wfFrom_cons] at h
    rw [shiftDown, if_neg (by omega), wfFrom_cons]
    refine ⟨by omega, by omega, h.2.2.1, ?_⟩
    have := ih (k := j) h.2.2.2 (by omega)
    rwa [show j - 1 + 1 = j by omega]

/-- A shift keeps the canonical form. -/
theorem wfFrom_shiftDown (h : wfFrom hi lo m = true) : wfFrom hi lo (shiftDown lo m) = true := by
  cases m with
  | nil => rfl
  | cons c m =>
    obtain ⟨j, c⟩ := c
    have h' := h
    rw [wfFrom_cons] at h'
    by_cases hj : j ≤ lo
    · have e : j = lo := by omega
      subst e
      rw [shiftDown, if_pos hj]
      exact wfFrom_shiftDown_past h'.2.2.2 (le_refl _)
    · have : wfFrom hi (lo + 1) ((j, c) :: m) = true := by
        rw [wfFrom_cons]
        exact ⟨by omega, h'.2⟩
      exact wfFrom_shiftDown_past this (le_refl _)

/-- What a shifted memory reads, past `lo`. -/
theorem read_shiftDown_past (h : wfFrom hi (k + 1) m = true) (hk : lo ≤ k) :
    read (shiftDown lo m) a = read m (a + 1) := by
  induction m generalizing k with
  | nil => rfl
  | cons c m ih =>
    obtain ⟨j, c⟩ := c
    rw [wfFrom_cons] at h
    rw [shiftDown, if_neg (by omega), read, read]
    by_cases e : j = a + 1
    · rw [if_pos (by omega), if_pos e]
    · rw [if_neg (by omega), if_neg e]
      exact ih (k := j) h.2.2.2 (by omega)

/-- After a shift every offset from `lo` on reads what the next one read before. -/
theorem read_shiftDown (h : wfFrom hi lo m = true) (ha : lo ≤ a) :
    read (shiftDown lo m) a = read m (a + 1) := by
  cases m with
  | nil => rfl
  | cons c m =>
    obtain ⟨j, c⟩ := c
    have h' := h
    rw [wfFrom_cons] at h'
    by_cases hj : j ≤ lo
    · have e : j = lo := by omega
      subst e
      rw [shiftDown, if_pos hj, read, if_neg (by omega)]
      exact read_shiftDown_past h'.2.2.2 (le_refl _)
    · have : wfFrom hi (lo + 1) ((j, c) :: m) = true := by
        rw [wfFrom_cons]
        exact ⟨by omega, h'.2⟩
      exact read_shiftDown_past this (le_refl _)

/-- Equal reads, equal data: the canonical form is unique. -/
theorem ext_of_read {m' : Memory} (h : wfFrom hi lo m = true) (h' : wfFrom hi lo m' = true)
    (e : ∀ a, read m a = read m' a) : m = m' := by
  induction m generalizing lo m' with
  | nil =>
    cases m' with
    | nil => rfl
    | cons c m' =>
      obtain ⟨k, c⟩ := c
      rw [wfFrom_cons] at h'
      have := e k
      simp [read] at this
      exact absurd this.symm h'.2.2.1
  | cons c m ih =>
    obtain ⟨k, c⟩ := c
    have w := h
    rw [wfFrom_cons] at h
    cases m' with
    | nil =>
      have := e k
      simp [read] at this
      exact absurd this h.2.2.1
    | cons d m' =>
      obtain ⟨j, d⟩ := d
      have w' := h'
      rw [wfFrom_cons] at h'
      have hkj : k = j := by
        by_contra hne
        rcases Nat.lt_or_gt_of_ne hne with hlt | hgt
        · have := e k
          rw [read, if_pos rfl, read, if_neg (by omega),
            read_below h'.2.2.2 (show k < j + 1 by omega)] at this
          exact h.2.2.1 this
        · have := e j
          rw [read, if_neg (by omega), read, if_pos rfl,
            read_below h.2.2.2 (show j < k + 1 by omega)] at this
          exact h'.2.2.1 this.symm
      subst hkj
      have hcd : c = d := by simpa [read] using e k
      subst hcd
      have : m = m' := by
        refine ih h.2.2.2 h'.2.2.2 fun a => ?_
        by_cases ha : a = k
        · subst ha
          rw [read_below h.2.2.2 (by omega), read_below h'.2.2.2 (by omega)]
        · have := e a
          rwa [read, if_neg (fun q => ha q.symm), read, if_neg (fun q => ha q.symm)] at this
      rw [this]

/-! ### The buffer -/

theorem wf_nil : wf [] = true := rfl

/-- One cell stored (10_state.md R36). -/
theorem wf_write_cell (h : wf m = true) (hk : k < 128) : wf (write m (cellOffset k) v) = true :=
  wfFrom_write h (by simp [cellOffset]) (by simp [cellOffset, bufBase, bufEnd]; omega)

/-- All cells shifted and one appended (10_state.md R36). -/
theorem wf_shiftAppend (h : wf m = true) : wf (write (shiftDown bufBase m) (cellOffset 127) v) = true :=
  wfFrom_write (wfFrom_shiftDown h) (by simp [cellOffset]) (by simp [cellOffset, bufBase, bufEnd])

end Sys2Proof.Machine.Memory

namespace Sys2Proof.Machine.State

variable {s : State} {k l : Nat} {v : Byte}

/-- What a stored cell does to every cell. -/
theorem cell_setCell (h : Memory.wf s.buf = true) :
    (s.setCell k v).cell l = if k = l then v else s.cell l := by
  unfold State.cell State.setCell
  rw [Memory.read_write h]
  simp [cellOffset]

/-- A store to another cell leaves a cell alone, canonical or not. -/
theorem cell_setCell_other (h : k ≠ l) : (s.setCell k v).cell l = s.cell l := by
  unfold State.cell State.setCell
  exact Memory.read_write_other (by simp [cellOffset, h])

/-- What a shift-append does to every cell (43_buffer.md R180). -/
theorem cell_shiftAppend (h : Memory.wf s.buf = true) :
    (s.shiftAppend v).cell k = if k = 127 then v else s.cell (k + 1) := by
  unfold State.cell State.shiftAppend
  rw [Memory.read_write (Memory.wfFrom_shiftDown h)]
  by_cases e : k = 127
  · simp [e]
  · rw [if_neg (by simp [cellOffset]; omega), if_neg e,
      Memory.read_shiftDown h (by simp [cellOffset])]
    rfl

/-- Every cell of a cleared buffer is zero (43_buffer.md R183). -/
@[simp] theorem cell_clearBuf : s.clearBuf.cell k = 0#8 := rfl

end Sys2Proof.Machine.State
end

