-- ==== Sys2Proof/Laws/PerInstr.lean ====
section
/-! SUPPORT. Statements about every instruction as syntax, one lemma for each constructor. -/

namespace Sys2Proof.Laws.CommandFields

/-- The three fields of a command's word (30_encoding.md R90): its opcode, its operand as it stands, and zero. -/
def Statement (i : Instr) : Prop :=
  opcField (encode i) = i.opcode ∧ argField (encode i) = i.operand ∧ zeroField (encode i) = 0

theorem fields (i : Instr) : Statement i :=
  ⟨opcField_assemble _ _, argField_assemble _ _, zeroField_assemble _ _⟩

theorem capt (n : Byte) : Statement (.capt n) := fields _
theorem put (i : Byte) : Statement (.put i) := fields _
theorem roll : Statement .roll := fields _
theorem trig : Statement .trig := fields _
theorem acq (n : Byte) : Statement (.acq n) := fields _
theorem clr : Statement .clr := fields _

end Sys2Proof.Laws.CommandFields
end

