-- ==== Sys2Proof/Laws/Runs.lean ====
section
/-! SUPPORT. Runs of the engine: the step of each phase, what every engine step leaves alone, the loop of a capture and the loop of a probe, each as one induction. -/

namespace Sys2Proof.Machine

variable {s t : State}

/-! ### The step of each phase -/

theorem engineStep_trigCheck (h : s.ph = .trigCheck) : engineStep s = trigCheckStep s := by
  unfold engineStep; rw [h]

theorem engineStep_trigProbe (h : s.ph = .trigProbe) : engineStep s = trigProbeStep s := by
  unfold engineStep; rw [h]

theorem engineStep_captLoop (h : s.ph = .captLoop) : engineStep s = captLoopStep s := by
  unfold engineStep; rw [h]

theorem engineStep_putOne (h : s.ph = .putOne) : engineStep s = putOneStep s := by
  unfold engineStep; rw [h]

theorem engineStep_rollOne (h : s.ph = .rollOne) : engineStep s = rollOneStep s := by
  unfold engineStep; rw [h]

theorem engineStep_clrAll (h : s.ph = .clrAll) : engineStep s = clrAllStep s := by
  unfold engineStep; rw [h]

/-- A run of one step. -/
theorem engineRun_one (hp : s.ph ≠ .idle) (h : engineStep s = .next t) : engineRun 1 s = .next t := by
  rw [show 1 = 0 + 1 from rfl, engineRun_succ hp h]; rfl

/-- The two ends of a search touch the phase, the flags and the capture index only (42_trigger.md R156). -/
theorem afterSearch_frame : ∃ b d p k, s.afterSearch = { s with busy := b, done := d, ph := p, i := k } := by
  unfold State.afterSearch
  split <;> exact ⟨_, _, _, _, rfl⟩

/-- What an engine step can change at all: the status flags, the results, the cells, the sequencer, the oracles. -/
theorem engineStep_frame (h : engineStep s = .next t) :
    ∃ b d ts at_ m p i j pb pa t0 adc now us,
      t = { s with
        busy := b, done := d, tstate := ts, attempts := at_, buf := m, ph := p, i := i, j := j, pb := pb, pa := pa,
        t0 := t0, adc := adc, now := now, pacedUs := us } := by
  obtain ⟨c0, c1, c2, e0⟩ := pacedSample_frame (s := s)
  cases hp : s.ph
  case idle =>
    unfold engineStep at h; rw [hp] at h; injection h with h
    exact ⟨_, _, _, _, _, _, _, _, _, _, _, _, _, _, h.symm⟩
  case trigCheck =>
    rw [engineStep_trigCheck hp, trigCheckStep_next] at h
    obtain ⟨-, rfl⟩ | ⟨-, rfl⟩ := h
    · obtain ⟨b, d, p, k, e⟩ := afterSearch_frame (s := s.setTState .gaveUp)
      rw [e]; exact ⟨_, _, _, _, _, _, _, _, _, _, _, _, _, _, rfl⟩
    · exact ⟨_, _, _, _, _, _, _, _, _, _, _, _, _, _, rfl⟩
  case trigProbe =>
    rw [engineStep_trigProbe hp, trigProbeStep_next] at h
    obtain ⟨-, -, rfl⟩ | ⟨-, h⟩ := h
    · rw [e0]; exact ⟨_, _, _, _, _, _, _, _, _, _, _, _, _, _, rfl⟩
    · obtain ⟨-, rfl⟩ | ⟨-, -, rfl⟩ | ⟨-, -, rfl⟩ := evaluateProbe_next.1 h
      · exact ⟨_, _, _, _, _, _, _, _, _, _, _, _, _, _, rfl⟩
      · obtain ⟨b, d, p, k, e⟩ := afterSearch_frame (s := s.countAttempt.setTState .fired)
        rw [e]; exact ⟨_, _, _, _, _, _, _, _, _, _, _, _, _, _, rfl⟩
      · exact ⟨_, _, _, _, _, _, _, _, _, _, _, _, _, _, rfl⟩
  case captLoop =>
    rw [engineStep_captLoop hp, captLoopStep_next] at h
    obtain ⟨-, -, -, rfl⟩ | ⟨-, rfl⟩ := h
    · rw [e0]; exact ⟨_, _, _, _, _, _, _, _, _, _, _, _, _, _, rfl⟩
    · exact ⟨_, _, _, _, _, _, _, _, _, _, _, _, _, _, rfl⟩
  case putOne =>
    rw [engineStep_putOne hp, putOneStep_next] at h
    exact ⟨_, _, _, _, _, _, _, _, _, _, _, _, _, _, h.2⟩
  case rollOne =>
    rw [engineStep_rollOne hp, rollOneStep_next] at h
    exact ⟨_, _, _, _, _, _, _, _, _, _, _, _, _, _, h.2⟩
  case clrAll =>
    rw [engineStep_clrAll hp, clrAllStep_next] at h
    exact ⟨_, _, _, _, _, _, _, _, _, _, _, _, _, _, h⟩

/-- No host access stops: each answers a next state (60_exceptions.md R221). -/
theorem performAccess_answers (a : Access) (s : State) : ∃ t, performAccess a s = .next t := by
  have hw : ∀ r v, ∃ t, writeReg r v s = .next t := by
    intro r v
    cases r
    case cmd =>
      simp only [writeReg, writeCmd]
      repeat' split
      exacts [⟨_, rfl⟩, ⟨_, rfl⟩, ⟨_, exec_eq _ _⟩]
    all_goals exact ⟨_, rfl⟩
  unfold performAccess
  split
  · split <;> exact ⟨_, rfl⟩
  · split
    · exact ⟨_, rfl⟩
    · split
      · exact hw _ _
      · exact ⟨_, rfl⟩

/-! ### Samples and the level -/

/-- After a paced sample the next samples move up by one (40_sampling.md R114). -/
theorem sampleAt_pacedSample (k : Nat) : (pacedSample s).2.sampleAt k = s.sampleAt (k + 1) := by
  obtain ⟨t0, now, us, e⟩ := pacedSample_frame (s := s)
  rw [e]; simp [State.sampleAt, State.reading, State.quantize, Nat.add_comm]

/-- A paced sample takes at least the interval (40_sampling.md R118). -/
theorem pacedUs_pacedSample : s.pacedUs + s.intervalUs.toNat ≤ (pacedSample s).2.pacedUs := by
  rw [pacedSample_snd]
  split
  · next h => simp [h]
  · rw [State.afterPacing_pacedUs, elapsed_add_delay]; omega

/-- `TRIG_LEVEL` holds the formula's value exactly (40_sampling.md R113). -/
theorem levelNow_toInt (hs : s.scaleMv ≠ 0) :
    s.levelNow.toInt = (s.trigUv.toInt * 16).tdiv ((s.scaleMv.toNat : Int) * 1000) := by
  have h0 : s.scaleMv.toNat ≠ 0 := fun h => hs (BitVec.eq_of_toNat_eq h)
  have lo := BitVec.le_toInt (x := s.trigUv)
  have hi := BitVec.toInt_lt (x := s.trigUv)
  unfold State.levelNow
  rw [quantRaw_def]
  generalize hx : s.trigUv.toInt * 16 = x
  generalize hy : (s.scaleMv.toNat : Int) * 1000 = y
  have hq : (x.tdiv y).natAbs * 1000 ≤ x.natAbs := by
    rw [Int.natAbs_tdiv]
    calc x.natAbs / y.natAbs * 1000 ≤ x.natAbs / y.natAbs * y.natAbs := Nat.mul_le_mul_left _ (by omega)
      _ ≤ x.natAbs := Nat.div_mul_le_self _ _
  rw [BitVec.toInt_ofInt, Int.bmod_eq_of_le] <;> omega

/-! ### The loop of a capture -/

/-- `m` steps of a capture that has at least `m` cells to go (41_acquisition.md R131). -/
theorem capt_run (m : Nat) : ∀ {s : State}, s.ph = .captLoop → s.scaleMv ≠ 0 → Memory.wf s.buf = true →
    s.n.toNat ≤ 128 → s.i.toNat + m ≤ s.n.toNat →
    ∃ u, engineRun m s = .next u ∧ Memory.wf u.buf = true ∧ u.i.toNat = s.i.toNat + m ∧
      (∀ k < m, u.cell (s.i.toNat + k) = s.sampleAt k) ∧
      (∀ a, ¬(cellOffset s.i.toNat ≤ a ∧ a < cellOffset (s.i.toNat + m)) →
        Memory.read u.buf a = Memory.read s.buf a) ∧
      u.now = s.now.skip (if s.intervalUs = 0 then 0 else 2 * m) ∧
      s.pacedUs + m * s.intervalUs.toNat ≤ u.pacedUs ∧
      u = { s with buf := u.buf, i := u.i, t0 := u.t0, adc := s.adc.skip m, now := u.now, pacedUs := u.pacedUs } := by
  induction m with
  | zero => intro s _ _ hw _ _; exact ⟨s, rfl, hw, by simp, by simp, by simp, by simp, by simp, by simp⟩
  | succ m ih =>
    intro s hp hs hw hn hm
    have hlt : s.i < s.n := by rw [BitVec.lt_def]; omega
    have hstep : engineStep s = .next (storeCaptured (s.sampleAt 0) (pacedSample s).2) := by
      rw [engineStep_captLoop hp, captLoopStep_next]; exact .inl ⟨hlt, by omega, hs, rfl⟩
    have hq := sampleAt_pacedSample (s := s)
    have hus := pacedUs_pacedSample (s := s)
    have hnow : (pacedSample s).2.now = s.now.skip (if s.intervalUs = 0 then 0 else 2) := by
      rw [pacedSample_snd]; split <;> simp
    obtain ⟨t0, now, us, e⟩ := pacedSample_frame (s := s)
    rw [e] at hstep hq hus hnow
    rw [engineRun_succ (by simp [hp]) hstep]
    have hi : (s.i + 1).toNat = s.i.toNat + 1 := by rw [BitVec.toNat_add]; have := s.n.isLt; simp; omega
    obtain ⟨u, h1, h2, h3, h4, h5, h6, h7, h8⟩ := ih
      (s := storeCaptured (s.sampleAt 0) { s with t0 := t0, adc := s.adc.skip 1, now := now, pacedUs := us })
      hp hs (Memory.wf_write_cell hw (show s.i.toNat < 128 by omega)) hn
      (show (s.i + 1).toNat + m ≤ s.n.toNat by omega)
    simp only [storeCaptured, State.setCell] at h3 h4 h5 h6 h7 h8
    rw [hi] at h3 h4 h5
    refine ⟨u, h1, h2, by omega, ?_, ?_, ?_, ?_, ?_⟩
    · intro k hk
      cases k with
      | zero =>
        unfold State.cell
        rw [h5 _ (by simp [cellOffset])]
        exact Memory.read_write_same hw
      | succ k =>
        rw [show s.i.toNat + (k + 1) = s.i.toNat + 1 + k by omega, h4 k (by omega)]
        exact hq k
    · intro a ha
      simp only [cellOffset] at ha h5
      rw [h5 a (by omega), Memory.read_write_other (by omega)]
    · have hnow' : now = s.now.skip (if s.intervalUs = 0 then 0 else 2) := hnow
      rw [h6, hnow', Draws.skip_skip]
      by_cases h0 : s.intervalUs = 0
      · simp [h0]
      · simp only [h0, if_false]
        rw [show 2 + 2 * m = 2 * (m + 1) by omega]
    · have hus' : s.pacedUs + s.intervalUs.toNat ≤ us := hus
      rw [Nat.add_mul]; omega
    · rw [h8]; simp [Nat.add_comm]

/-- A capture at its count finishes (41_acquisition.md R131). -/
theorem capt_finish (hp : s.ph = .captLoop) (hi : s.i.toNat = s.n.toNat) : engineStep s = .next s.finish := by
  rw [engineStep_captLoop hp, captLoopStep_next]
  exact .inr ⟨by rw [BitVec.lt_def]; omega, rfl⟩

/-! ### The loop of a probe -/

/-- `m` steps of a probe that has at least `m` samples to go (42_trigger.md R154). -/
theorem probe_run (m : Nat) : ∀ {s : State}, s.ph = .trigProbe → s.scaleMv ≠ 0 → s.j.toNat + m ≤ s.probeW.toNat →
    ∃ u, engineRun m s = .next u ∧ u.j.toNat = s.j.toNat + m ∧
      u.pb = (s.pb && probeBelow s.sampleAt s.trigLevel.toInt m 0) ∧
      u.pa = (s.pa && probeAbove s.sampleAt s.trigLevel.toInt m 0) ∧
      s.pacedUs + m * s.intervalUs.toNat ≤ u.pacedUs ∧
      u = { s with
        j := u.j, pb := u.pb, pa := u.pa, t0 := u.t0, adc := s.adc.skip m, now := u.now, pacedUs := u.pacedUs } := by
  induction m with
  | zero => intro s _ _ _; exact ⟨s, rfl, rfl, by simp [probeBelow], by simp [probeAbove], by simp, by simp⟩
  | succ m ih =>
    intro s hp hs hm
    have hlt : s.j < s.probeW := by rw [BitVec.lt_def]; omega
    have hstep : engineStep s = .next ((pacedSample s).2.foldProbe (s.sampleAt 0)) := by
      rw [engineStep_trigProbe hp, trigProbeStep_next]; exact .inl ⟨hlt, hs, rfl⟩
    have hq := sampleAt_pacedSample (s := s)
    have hus := pacedUs_pacedSample (s := s)
    obtain ⟨t0, now, us, e⟩ := pacedSample_frame (s := s)
    rw [e] at hstep hq hus
    rw [engineRun_succ (by simp [hp]) hstep]
    have hj : (s.j + 1).toNat = s.j.toNat + 1 := by rw [BitVec.toNat_add]; have := s.probeW.isLt; simp; omega
    obtain ⟨u, h1, h2, h3, h4, h5, h6⟩ := ih
      (s := State.foldProbe (s.sampleAt 0) { s with t0 := t0, adc := s.adc.skip 1, now := now, pacedUs := us })
      hp hs (show (s.j + 1).toNat + m ≤ s.probeW.toNat by omega)
    have hq' : (State.foldProbe (s.sampleAt 0)
        { s with t0 := t0, adc := s.adc.skip 1, now := now, pacedUs := us }).sampleAt = fun k => s.sampleAt (k + 1) :=
      funext hq
    rw [hq'] at h3 h4
    simp only [State.foldProbe] at h2 h3 h4 h5 h6
    refine ⟨u, h1, by omega, ?_, ?_, ?_, ?_⟩
    · rw [h3]
      simp [probeBelow, List.range_succ_eq_map, List.all_map, Function.comp_def, sampleBelow, Bool.and_assoc]
    · rw [h4]
      simp [probeAbove, List.range_succ_eq_map, List.all_map, Function.comp_def, sampleAbove, Bool.and_assoc]
    · have hus' : s.pacedUs + s.intervalUs.toNat ≤ us := hus
      rw [Nat.add_mul]; omega
    · rw [h6]; simp [Nat.add_comm]

end Sys2Proof.Machine
end

