-- ==== Sys2Proof/Laws/Turns.lean ====
section
/-! SUPPORT. The turns are fair to the engine: what makes runs of the machine end (70_reset_and_hazards.md R264). -/

namespace Sys2Proof.Machine

variable {s t u : State}

/-! ### Runs of the machine -/

theorem stepRun_succ {k : Nat} (h : step s = .next t) : stepRun (k + 1) s = stepRun k t := by
  simp [stepRun, h]

/-- Runs of the machine compose. -/
theorem stepRun_add {a b : Nat} (h : stepRun a s = .next t) (h2 : stepRun b t = .next u) :
    stepRun (a + b) s = .next u := by
  induction a generalizing s with
  | zero =>
    injection h with h
    subst h
    simpa using h2
  | succ a ih =>
    cases hs : step s with
    | next v =>
      rw [stepRun_succ hs] at h
      rw [show a + 1 + b = (a + b) + 1 by omega, stepRun_succ hs]
      exact ih h
    | fault r => simp [stepRun, hs] at h
    | refused r => simp [stepRun, hs] at h

/-! ### The turns -/

/-- With `m` turns of the host left in the round, the engine's turn is the one after them. -/
theorem fairRound_end {k m r : Nat} (h : fairRound k = (r, m)) : fairRound (k + m) = (r, 0) := by
  induction m generalizing k with
  | zero => exact h
  | succ m ih =>
    rw [show k + (m + 1) = (k + 1) + m by omega]
    exact ih (by simp [fairRound, h])

/-- From every turn on the engine's turn comes (70_reset_and_hazards.md R264: weak fairness). -/
theorem fairTurn_engine (k : Nat) : ∃ m, fairTurn (k + m) = .engine :=
  ⟨(fairRound k).2, by simp [fairTurn, fairRound_end (k := k) rfl]⟩

/-- No list of turns leaves the engine out for ever. -/
theorem turn_engine (s : State) : ∃ k, State.turn { s with turns := s.turns.skip k } = .engine := by
  obtain ⟨m, hm⟩ := fairTurn_engine (s.turns.drawn + s.turns.pending.length)
  refine ⟨s.turns.pending.length + m, ?_⟩
  simp [State.turn, Draws.value, Draws.skip, List.drop_eq_nil_of_le, ← Nat.add_assoc, hm]

end Sys2Proof.Machine
end

