-- ==== Sys2Proof/Tests/Slice0.lean ====
section
/-! SUPPORT. Tests: the well-formedness check, the decoder on written words, one step of each command on the vectors of 95_test_vectors.md, and for each obligation with hypotheses a state that meets them. -/

namespace Sys2Proof.Tests

open Sys2Proof Sys2Proof.Machine

/-! ### States to test on -/

/-- A configured idle block of the simpler variant: 1000 mV a division, trigger at 1 V. -/
def ready : State := { State.reset with scaleMv := 1000, trigUv := 1000000, maxcyc := .simpler }

/-- The same with the analog channel's next answers. -/
def reading (answers : List Word) (s : State) : State := { s with adc := ⟨answers, 0⟩ }

/-- A capture of `n` samples at index `i`. -/
def capturing (i n : Byte) : State := { ready with busy := true, ph := .captLoop, n := n, i := i }

/-- A search between two probes: level 16, after `a` attempts. -/
def checking (t : TState) (a : BitVec 9) : State :=
  { ready with busy := true, ph := .trigCheck, opc := .trig, tstate := t, attempts := a, trigLevel := 16 }

/-- A search inside a probe of one sample, `j` of it read. -/
def probing (t : TState) (a : BitVec 9) (j : Byte) (pb pa : Bool) : State :=
  { checking t a with ph := .trigProbe, j := j, pb := pb, pa := pa }

/-- A completed command, not acknowledged. -/
def completed : State := { ready with done := true }

/-- What a run answers, looked at where it goes on. -/
def seen (f : State → Bool) (o : Outcome) : Bool :=
  match o with
  | .next s => f s
  | .fault _ => false
  | .refused _ => false

/-! ### Well-formedness (30_encoding.md R92, R95) -/

theorem test_capt_too_long_refused : (Instr.capt 129).wellFormed = false := by decide
theorem test_put_past_end_refused : (Instr.put 128).wellFormed = false := by decide
theorem test_acq_too_long_refused : (Instr.acq 129).wellFormed = false := by decide
theorem test_bounds_accepted :
    (Instr.capt 128).wellFormed = true ∧ (Instr.put 127).wellFormed = true ∧ (Instr.acq 128).wellFormed = true := by
  decide

/-! ### The decoder on words written from 30_encoding.md R90 and R92, and R97's examples -/

theorem test_decode_capt : decode 0b0000000000000000_00000011_00000001#32 = .ok (.capt 3) := by decide
theorem test_decode_put : decode 0b0000000000000000_00000101_00000010#32 = .ok (.put 5) := by decide
theorem test_decode_roll : decode 0b0000000000000000_00000000_00000011#32 = .ok .roll := by decide
theorem test_decode_trig : decode 0b0000000000000000_00000000_00000100#32 = .ok .trig := by decide
theorem test_decode_acq : decode 0b0000000000000000_10000000_00000101#32 = .ok (.acq 128) := by decide
theorem test_decode_clr : decode 0b0000000000000000_00000000_00000110#32 = .ok .clr := by decide
theorem test_decode_zero_field : decode 0b0000000000000001_00000000_00000001#32 = .error .zeroFieldSet := by decide
theorem test_decode_opcode_zero : decode 0#32 = .error .unknownOpcode := by decide
theorem test_decode_roll_with_operand :
    decode 0b0000000000000000_00000001_00000011#32 = .error .operandNotAllowed := by decide
theorem test_decodeTableWord : decodeTableWord 32 0x00000502 = some (.put 5) := by decide

/-! ### One step of each command (95_test_vectors.md) -/

/-- V-Q and 40_sampling.md R111, R113: a negative quotient truncates toward zero, an odd scale, saturation. -/
theorem test_quantizer :
    quantRaw (-500000) 1000 = -8 ∧ quantRaw (-1) 1000 = 0 ∧ quantRaw 1560 5 = 4 ∧ quantRaw 4095937 65535 = 0 ∧
    quant 33000 2 = 255 ∧ quant (-500000) 1000 = 0 := by decide

/-- V-PACE, its first, third and last rows. -/
theorem test_pacing :
    pacingDelay 625 (1040 - 1000) = 585 ∧ pacingDelay 625 (1625 - 1000) = 0 ∧
    pacingDelay 625 (0x00000010 - 0xFFFFFFF0) = 593 := by decide

/-- V-CAPT-1, its last sample: 1500000 microvolts into cell 2. -/
theorem test_capt_step :
    seen (fun t => t.cell 2 == 24 && t.i == 3 && t.ph == .captLoop)
      (engineStep (reading [1500000] (capturing 2 3))) = true := by decide

/-- V-CAPT-2: `CAPT 0` is accepted, and its one step is `finish`. -/
theorem test_capt_zero :
    seen (fun t => t.done && !t.busy && t.adc.drawn == 0) (runCommand (.capt 0) ready) = true := by decide

/-- V-PUT-1. -/
theorem test_put :
    seen (fun t => t.cell 5 == 32 && t.cell 4 == 0 && t.done)
      (runCommand (.put 5) (reading [1000000] { ready with scaleMv := 500 })) = true := by decide

/-- V-ROLL-1, on its last three cells and its first. -/
theorem test_roll :
    seen (fun t => t.cell 127 == 24 && t.cell 126 == 127 && t.cell 0 == 1)
      (runCommand .roll (reading [1500000] { ready with buf := [(0x81, 1), (0xFF, 127)] })) = true := by decide

/-- V-CLR-1: accepted at reset, with no scale. -/
theorem test_clr :
    seen (fun t => t.buf == [] && t.done && t.err == 0)
      (runCommand .clr { State.reset with buf := [(0x80, 7)] }) = true := by decide

/-- The trigger level of V-TRIG's table, at acceptance: 1650000 microvolts at 200 mV is 132, and a level above 255 is not
clamped. -/
theorem test_trig_level :
    seen (fun t => t.trigLevel == 132 && t.tstate == .armedBelow && t.busy)
      (exec .trig { ready with scaleMv := 200, trigUv := 1650000 }) = true ∧
    seen (fun t => t.trigLevel == 256) (exec .trig { ready with trigUv := 16000000 }) = true := by decide

/-- 42_trigger.md R155: the probe that arms is not tested for `Fired` as well. -/
theorem test_trig_evaluate :
    seen (fun t => t.tstate == .armedAbove && t.attempts == 1 && t.ph == .trigCheck)
      (engineStep (probing .armedBelow 0 1 true true)) = true := by decide

/-- 42_trigger.md R160, its worked example: the search fires in two attempts and two samples are captured. -/
theorem test_acq :
    seen (fun t => t.tstate == .fired && t.attempts == 2 && t.cell 0 == 24 && t.cell 1 == 32 && t.adc.drawn == 4)
      (engineRun 9 (acceptAcq 2 (reading [500000, 1500000, 1500000, 2000000] ready))) = true := by decide

/-- An out of range count at `ACQ` (V-DEC). -/
theorem test_acq_refused :
    seen (fun t => t.err == 0b00010 && !t.busy) (performAccess (.write 0x00 .four 0x00008105) ready) = true := by decide

/-! ### Memory -/

theorem test_reset_buffer_canonical : Memory.wf State.reset.buf = true := by decide
theorem test_write_zero_removes : Memory.write [(0x80, 7)] 0x80 0 = [] := by decide

/-! ### The invariant holds in states of a run -/

/-- 42_trigger.md R151, its table: 1 V at 1000 mV a division. -/
theorem test_ready_level : 16#32 = ready.levelNow := by decide

theorem test_ready_inv : ready.Inv := by
  constructor <;> simp [ready, State.reset, Phase.searching, Memory.wf, TriggerVariant.cycles, State.ResetHeld]

theorem test_capturing_inv {i n : Byte} (h : i.toNat ≤ n.toNat ∧ n.toNat ≤ 128) : (capturing i n).Inv := by
  constructor <;>
    simp [capturing, ready, State.reset, Phase.searching, Memory.wf, TriggerVariant.cycles, State.ResetHeld, h]

theorem test_checking_inv {a : BitVec 9} (h : a.toNat ≤ 128) : (checking .armedBelow a).Inv := by
  constructor <;>
    simp [checking, ready, State.reset, Phase.searching, Memory.wf, TriggerVariant.cycles, State.ResetHeld, h]
  exact test_ready_level

theorem test_probing_inv {t : TState} {a : BitVec 9} {pb pa : Bool} (h : 1 ≤ a.toNat ∧ a.toNat < 128)
    (ht : t = .armedBelow ∨ t = .armedAbove) (hx : ¬(pb = true ∧ pa = true)) : (probing t a 1 pb pa).Inv := by
  constructor <;>
    simp [probing, checking, ready, State.reset, Phase.searching, Memory.wf, TriggerVariant.cycles, State.ResetHeld]
  · omega
  · exact ht
  · exact h.2
  · simpa using hx
  · exact test_ready_level
  · exact fun _ => h.1
  · rcases ht with rfl | rfl <;> simp
  · rcases ht with rfl | rfl <;> simp

theorem test_completed_inv : completed.Inv := by
  constructor <;>
    simp [completed, ready, State.reset, Phase.searching, Memory.wf, TriggerVariant.cycles, State.ResetHeld]

/-! ### The hypotheses of each obligation are met: one theorem an obligation, a witness for each of its clauses -/

theorem test_hyps_DecodedWordIsEncoding : decode 0x00000502#32 = .ok (.put 5) := by decide

theorem test_hyps_MaskMatchSelectsCommand :
    (decode 0x00008001#32 = .ok (.capt 128)) ∧
    (0x00008001#32 &&& (Instr.capt 128).mask = (Instr.capt 128).pattern ∧ argField 0x00008001#32 = 128) := by decide

/-- One word for each verdict, at the edge of its range, in a state that gets there. -/
theorem test_hyps_CommandVerdictOrder :
    (capturing 0 1).busy = true ∧
    (ready.busy = false ∧ (0x00010001#32).extractLsb' 16 16 ≠ 0#16) ∧
    ((0x00000007#32).extractLsb' 16 16 = 0#16 ∧ ¬((0x00000007#32).extractLsb' 0 8).toNat ≤ 6) ∧
    (((0x00000103#32).extractLsb' 0 8).toNat = 3 ∧ ((0x00000103#32).extractLsb' 8 8).toNat ≠ 0) ∧
    (((0x00008101#32).extractLsb' 0 8).toNat = 1 ∧ 128 < ((0x00008101#32).extractLsb' 8 8).toNat) ∧
    (((0x00008002#32).extractLsb' 0 8).toNat = 2 ∧ 127 < ((0x00008002#32).extractLsb' 8 8).toNat) ∧
    (((0x00008005#32).extractLsb' 0 8).toNat ≤ 5 ∧ State.reset.scaleMv = 0 ∧ State.reset.busy = false) ∧
    (¬128 < ((0x00008005#32).extractLsb' 8 8).toNat ∧ ready.scaleMv ≠ 0) := by decide

theorem test_hyps_AcceptanceWritesExactly :
    ready.busy = false ∧ ready.scaleMv ≠ 0 ∧ (128#8).toNat ≤ 128 ∧ (127#8).toNat ≤ 127 ∧
    State.reset.busy = false ∧ (capturing 0 1).busy = true := by decide

theorem test_hyps_CaptFillsCellsInOrder :
    ready.busy = false ∧ ready.scaleMv ≠ 0 ∧ Memory.wf ready.buf = true ∧ (128#8).toNat ≤ 128 := by decide

theorem test_hyps_PutStoresOneCell :
    ready.busy = false ∧ ready.scaleMv ≠ 0 ∧ Memory.wf ready.buf = true ∧ (127#8).toNat ≤ 127 := by decide

theorem test_hyps_RollShiftsAndAppends :
    ready.busy = false ∧ ready.scaleMv ≠ 0 ∧ Memory.wf ready.buf = true := by decide

theorem test_hyps_ClrZeroesAllCells : State.reset.busy = false ∧ Memory.wf State.reset.buf = true := by decide

theorem test_hyps_TrigIsTheSearch : ready.busy = false ∧ ready.scaleMv ≠ 0 := by decide

theorem test_hyps_AcqSearchesThenCaptures :
    ready.busy = false ∧ ready.scaleMv ≠ 0 ∧ Memory.wf ready.buf = true ∧ (128#8).toNat ≤ 128 := by decide

theorem test_hyps_AcqEqualsTrigThenCapt :
    ready.busy = false ∧ ready.scaleMv ≠ 0 ∧ Memory.wf ready.buf = true ∧ (0#8).toNat ≤ 128 := by decide

theorem test_hyps_CaptEqualsPuts :
    ready.busy = false ∧ ready.scaleMv ≠ 0 ∧ Memory.wf ready.buf = true ∧ 1 ≤ (128#8).toNat ∧ (128#8).toNat ≤ 128 := by
  decide

theorem test_hyps_RollsAreFifo :
    ready.busy = false ∧ ready.scaleMv ≠ 0 ∧ Memory.wf ready.buf = true := by decide

theorem test_hyps_ClrThenRollsFromTheRight :
    ready.busy = false ∧ ready.scaleMv ≠ 0 ∧ Memory.wf ready.buf = true ∧ 128 ≤ 128 := by decide

/-- The last cell to store, and the finished capture. -/
theorem test_hyps_CaptLoopStoresOrFinishes :
    ((capturing 127 128).ph = .captLoop ∧ (capturing 127 128).scaleMv ≠ 0 ∧ (capturing 127 128).n.toNat ≤ 128 ∧
      Memory.wf (capturing 127 128).buf = true ∧ (capturing 127 128).i < (capturing 127 128).n) ∧
    ¬(capturing 128 128).i < (capturing 128 128).n := by decide

/-- The budget used up and not, and the four evaluations of a complete probe. -/
theorem test_hyps_SearchStepsFollowTheRules :
    ((checking .armedBelow 128).ph = .trigCheck ∧
      (checking .armedBelow 128).attempts.toNat = (checking .armedBelow 128).maxcyc.cycles) ∧
    ((checking .armedBelow 127).ph = .trigCheck ∧
      (checking .armedBelow 127).attempts.toNat ≠ (checking .armedBelow 127).maxcyc.cycles) ∧
    ((probing .armedBelow 0 1 true false).ph = .trigProbe ∧
      (probing .armedBelow 0 1 true false).j = (probing .armedBelow 0 1 true false).probeW ∧
      (probing .armedBelow 0 1 true false).tstate = .armedBelow ∧ (probing .armedBelow 0 1 true false).pb = true) ∧
    ((probing .armedBelow 0 1 false true).tstate = .armedBelow ∧ (probing .armedBelow 0 1 false true).pb = false) ∧
    ((probing .armedAbove 1 1 false true).tstate = .armedAbove ∧ (probing .armedAbove 1 1 false true).pa = true) ∧
    ((probing .armedAbove 1 1 true false).tstate = .armedAbove ∧ (probing .armedAbove 1 1 true false).pa = false) := by
  decide

theorem test_hyps_ProbeIsAllOrNothing :
    let s := probing .armedBelow 0 0 true true
    (s.ph = .trigProbe ∧ s.scaleMv ≠ 0) ∧ s.j < s.probeW ∧ s.j = 0 ∧ s.pb = true ∧ s.pa = true ∧
      1 ≤ s.probeW.toNat := by decide

/-- The invariant does not look at the statements to come, the turns nor `IE`, outside a reset. -/
theorem test_inv_hostSide {s : State} (h : s.Inv) (l : List HostStmt) (b : Bool) (d : Draws Agent)
    (hr : s.resetAsserted = false := by rfl) : State.Inv { s with script := l, ie := b, turns := d } :=
  ⟨h.1, h.2, h.3, h.4, h.5, h.6, h.7, h.8, h.9, h.10, h.11, h.12, h.13, h.14, h.15, h.16, by simp [hr]⟩

/-- A block whose engine moves next, the assertion of the reset input being the outside world's next statement. -/
def aboutToReset (s : State) : State := { s with script := [.resetInput true], ie := false, turns := ⟨[.engine], 0⟩ }

/-- An acceptance, the two ends of the engine's part, and a step of each, with an assertion of reset still to come. -/
theorem test_hyps_TriggerTransitionsComplete :
    (ready.busy = false ∧ seen (fun t => t.busy) (exec .trig ready) = true) ∧
    ((checking .armedBelow 128).Inv ∧ (checking .armedBelow 128).ph = .trigCheck ∧
      (checking .armedBelow 128).attempts.toNat = (checking .armedBelow 128).maxcyc.cycles ∧
      seen (fun _ => true) (engineStep (checking .armedBelow 128)) = true) ∧
    ((probing .armedAbove 1 1 false true).Inv ∧ (probing .armedAbove 1 1 false true).ph = .trigProbe ∧
      (probing .armedAbove 1 1 false true).j = (probing .armedAbove 1 1 false true).probeW ∧
      ¬(probing .armedAbove 1 1 false true).assertsReset ∧
      seen (fun _ => true) (step (probing .armedAbove 1 1 false true)) = true) ∧
    ((aboutToReset (capturing 3 3)).Inv ∧ ¬(aboutToReset (capturing 3 3)).assertsReset ∧
      seen (fun t => t.done) (step (aboutToReset (capturing 3 3))) = true) :=
  ⟨by decide, ⟨test_checking_inv (by decide), by decide⟩,
    ⟨test_probing_inv (by decide) (.inr rfl) (by decide), by decide⟩,
    test_inv_hostSide (test_capturing_inv (by decide)) _ _ _, by decide⟩

theorem test_hyps_FinishedSearchOutcome : ready.busy = false ∧ ready.scaleMv ≠ 0 := by decide

/-- The two edges: a level of 0, a level of 256. -/
theorem test_hyps_UnreachableLevelGivesUp :
    let at_ (uv : Word) : State := { ready with trigUv := uv }
    ((at_ 0).busy = false ∧ (at_ 0).scaleMv ≠ 0 ∧ 1 ≤ (at_ 0).probeW.toNat ∧
      ((at_ 0).trigUv.toInt * 16).tdiv (((at_ 0).scaleMv.toNat : Int) * 1000) ≤ 0) ∧
    ((at_ 16000000).busy = false ∧ (at_ 16000000).scaleMv ≠ 0 ∧ 1 ≤ (at_ 16000000).probeW.toNat ∧
      256 ≤ ((at_ 16000000).trigUv.toInt * 16).tdiv (((at_ 16000000).scaleMv.toNat : Int) * 1000)) := by decide

theorem test_hyps_ConstantInputNeverFires :
    let s := reading (List.replicate 128 0) ready
    s.busy = false ∧ s.scaleMv ≠ 0 ∧ 1 ≤ s.probeW.toNat ∧
      ∀ k < s.maxcyc.cycles * s.probeW.toNat, s.sampleAt k = s.sampleAt 0 := by decide

theorem test_hyps_StepInputFiresInTwoAttempts :
    let s := reading [500000, 1500000, 1500000] ready
    (s.busy = false ∧ s.scaleMv ≠ 0 ∧ Memory.wf s.buf = true ∧ 1 ≤ (1#8).toNat ∧ (128#8).toNat ≤ 128 ∧ s.probeW = 1) ∧
    ((s.sampleAt 0).toNat : Int) < (s.trigUv.toInt * 16).tdiv ((s.scaleMv.toNat : Int) * 1000) ∧
    (s.trigUv.toInt * 16).tdiv ((s.scaleMv.toNat : Int) * 1000) ≤ ((s.sampleAt 1).toNat : Int) ∧
    (s.trigUv.toInt * 16).tdiv ((s.scaleMv.toNat : Int) * 1000) ≤ ((s.sampleAt 2).toNat : Int) := by decide

theorem test_hyps_EngineStaysBusyOrFinishes :
    (capturing 1 3).Inv ∧ (capturing 1 3).ph ≠ .idle ∧ seen (fun t => t.busy) (engineStep (capturing 1 3)) = true ∧
    (capturing 3 3).Inv ∧ seen (fun t => !t.busy) (engineStep (capturing 3 3)) = true :=
  ⟨test_capturing_inv (by decide), by decide, by decide, test_capturing_inv (by decide), by decide⟩

theorem test_hyps_EngineLeavesHostSideAlone : seen (fun _ => true) (engineStep (capturing 1 3)) = true := by decide

theorem test_hyps_QuantRawTruncatesTowardZero :
    ((1 : Int) ≤ 1 ∧ (65535 : Int) ≤ 65535) ∧ (0 : Int) ≤ 2147483647 ∧ (-2147483648 : Int) ≤ 0 := by decide

theorem test_hyps_QuantSaturatesToByte :
    quantRaw (-62500) 1000 < 0 ∧ 255 < quantRaw 16000000 1000 ∧ 0 ≤ quantRaw 15999999 1000 ∧
    quantRaw 15999999 1000 ≤ 255 ∧ ready.scaleMv ≠ 0 := by decide

theorem test_hyps_QuantizerFitsAndIsMonotone :
    ((1 : Int) ≤ 1 ∧ (65535 : Int) ≤ 65535) ∧ (-2147483648 : Int) ≤ 2147483647 := by decide

theorem test_hyps_VoltsRoundTripWithinOnePixel :
    1 ≤ 1000 ∧ 1000 ≤ 65535 ∧ (0 : Int) ≤ 1062499 ∧ quantRaw 1062499 1000 ≤ 255 := by decide

/-- No pacing, and with pacing the elapsed time at the interval and one below it. -/
theorem test_hyps_PacedSampleDelayNeverNegative :
    let s (later : Word) : State := { ready with intervalUs := 625, now := ⟨[1000, later], 0⟩ }
    ready.intervalUs = 0 ∧ (s 0).intervalUs ≠ 0 ∧
    (s 1625).intervalUs.toNat ≤ ((s 1625).timeStamp 1 - (s 1625).timeStamp 0).toNat ∧
    ((s 1624).timeStamp 1 - (s 1624).timeStamp 0).toNat < (s 1624).intervalUs.toNat := by decide

/-- Each clause at an edge of its range. -/
theorem test_hyps_AccessErrorsOnlySetAddr :
    Width.two.bytes = 2 ∧ (0x30 ≤ (0x7F#8).toNat ∧ (0x7F#8).toNat ≤ 0x7F) ∧
    ((0x2F#8).toNat ≤ 0x2F ∧ Width.one.bytes ≠ 4) ∧ ((0x2E#8).toNat ≤ 0x2F ∧ (0x2E#8).toNat % 4 ≠ 0) ∧
    0x100 < (0xFD#8).toNat + Width.four.bytes ∧ (0x00#8).toNat = 0x00 ∧
    (0x80 ≤ (0x81#8).toNat ∧ Width.four.bytes = 4 ∧ (0x81#8).toNat % 4 ≠ 0) ∧
    (0x24#8).toNat = 0x24 ∧ (0x28#8).toNat = 0x28 ∧ (0x2C#8).toNat = 0x2C ∧ 0x80 ≤ (0x80#8).toNat := by decide

theorem test_hyps_IdleRegisterReads : ready.busy = false := by decide

theorem test_hyps_BusyRegisterReads : (capturing 0 1).busy = true := by decide

/-- The last byte and the last word, idle and busy. -/
theorem test_hyps_BufferReadsLittleEndian :
    127 ≤ 127 ∧ (124 ≤ 127 ∧ 124 % 4 = 0) ∧ ready.busy = false ∧ (capturing 0 1).busy = true := by decide

/-- Each register's legal values end where the clauses meet. -/
theorem test_hyps_ConfigurationWriteRule :
    (capturing 0 1).busy = true ∧ ready.busy = false ∧
    (¬1 ≤ (0#32).toNat ∧ (1 ≤ (65535#32).toNat ∧ (65535#32).toNat ≤ 65535) ∧ ¬(65536#32).toNat ≤ 65535) ∧
    ((255#32).toNat ≤ 255 ∧ ¬(256#32).toNat ≤ 255) ∧
    ((1 ≤ (128#32).toNat ∧ (128#32).toNat ≤ 128) ∧ ¬(129#32).toNat ≤ 128) := by decide

theorem test_hyps_ControlRegisterWrites :
    2 ≤ (2#32).toNat ∧ (1#32).toNat < 2 ∧ (2#32).getLsbD 1 = true ∧ (1#32).getLsbD 1 = false := by decide

theorem test_hyps_ConfigurationConstantWhileBusy :
    (capturing 1 3).busy = true ∧ ¬(capturing 1 3).assertsReset ∧ (capturing 1 3).ResetHeld ∧
      seen (fun _ => true) (step (capturing 1 3)) = true := by decide

theorem test_hyps_BufferChangesOnlyWhileBusy :
    let s := reading [1500000] (capturing 2 3)
    s.Inv ∧ ¬s.assertsReset ∧ seen (fun t => t.buf != s.buf) (step s) = true := by
  have h : (capturing 2 3).Inv := test_capturing_inv (by decide)
  exact ⟨⟨h.1, h.2, h.3, h.4, h.5, h.6, h.7, h.8, h.9, h.10, h.11, h.12, h.13, h.14, h.15, h.16, by decide⟩,
    by decide⟩

theorem test_hyps_IdleResultsStayUntilNextCommand :
    ready.Inv ∧ ready.busy = false ∧ ¬ready.assertsReset ∧ seen (fun t => !t.busy) (step ready) = true :=
  ⟨test_ready_inv, by decide⟩

/-- A block about to be written. -/
def writing (o : Byte) (v : Word) (ie : Bool) (s : State) : State :=
  { s with script := [.access (.write o .four v)], ie := ie }

/-- The line rises at `finish` and at the enable, and falls at the acknowledgement, at acceptance and at the disable. -/
theorem test_hyps_IrqRisesAndFallsAsStated :
    let rises (s : State) : Bool := !s.irq && seen (fun t => t.irq) (step s)
    let falls (s : State) : Bool := s.irq && seen (fun t => !t.irq) (step s)
    rises { capturing 3 3 with script := [], ie := true } = true ∧ rises (writing 0x08 1 false completed) = true ∧
    falls (writing 0x04 2 true completed) = true ∧ falls (writing 0x00 0x00000003 true completed) = true ∧
    falls (writing 0x08 0 true completed) = true := by decide

/-- The states of the theorem before meet its hypotheses. -/
theorem test_hyps_IrqStates (o : Byte) (v : Word) (b : Bool) :
    (State.Inv { capturing 3 3 with script := [], ie := true } ∧
      ¬State.assertsReset { capturing 3 3 with script := [], ie := true }) ∧
    (writing o v b completed).Inv ∧ ¬(writing o v b completed).assertsReset :=
  ⟨⟨test_inv_hostSide (test_capturing_inv (by decide)) _ _ _, by simp [State.assertsReset]⟩,
    test_inv_hostSide test_completed_inv _ _ _, by simp [State.assertsReset, writing]⟩

/-- A block held at reset. -/
def held : State := { State.reset with resetAsserted := true }

/-- An idle block, a busy one whose next turn is the host's, and one held at reset. -/
theorem test_hyps_StepRunsDeliveredCommand :
    let cmd (s : State) : State := { s with script := [.access (.write 0x00 .four 0x00008001)] }
    decode 0x00008001#32 = .ok (.capt 128) ∧ decodeTableWord 32 0x00008001 = some (.capt 128) ∧
    (cmd ready).ph = .idle ∧
    ((cmd (capturing 0 1)).ph ≠ .idle ∧ { cmd (capturing 0 1) with turns := ⟨[.host], 0⟩ }.turn = .host) ∧
    (ready.resetAsserted = false ∧ (cmd held).ph = .idle ∧ (cmd held).resetAsserted = true) := by decide

theorem test_hyps_EngineMovesOnItsTurn :
    ((capturing 0 1).ph ≠ .idle ∧ (capturing 0 1).script = []) ∧
    ({ capturing 0 1 with script := [.wait] }.script ≠ [] ∧
      { capturing 0 1 with turns := ⟨[.engine], 0⟩ }.turn = .engine) ∧
    (ready.ph = .idle ∧ ready.script = []) := by decide

theorem test_hyps_WaitEndsWhenNotBusy :
    { ready with script := [.wait] }.script = .wait :: [] ∧ ready.busy = false ∧ (capturing 0 1).busy = true ∧
    ready.ResetHeld ∧ (capturing 0 1).ResetHeld ∧ held.ResetHeld ∧ held.resetAsserted = true :=
  ⟨rfl, rfl, rfl, by decide, by decide, fun _ => rfl, rfl⟩

/-- Asserted during a command, released, released though not asserted, and an access meanwhile. -/
theorem test_hyps_ResetInputAbandonsCommand :
    { capturing 0 1 with script := [.resetInput true] }.script = .resetInput true :: [] ∧
    ({ held with script := [.resetInput false] }.script = .resetInput false :: [] ∧ held.resetAsserted = true) ∧
    ready.resetAsserted = false ∧ held.ResetHeld ∧
    { held with script := [.access (.read 0x04 .four)] }.script = .access (.read 0x04 .four) :: [] :=
  ⟨rfl, ⟨rfl, rfl⟩, rfl, fun _ => rfl, rfl⟩

/-- 70_reset_and_hazards.md R250: a command written while reset is asserted leaves no trace, and a read answers the reset
value. -/
theorem test_held_reset :
    seen (fun t => !t.busy && t.script == []) (step { held with script := [.access (.write 0x00 .four 0x00000006)] }) = true ∧
    seen (fun t => t.reads == [⟨0x20, .four, 1⟩]) (step { held with script := [.access (.read 0x20 .four)] }) = true := by
  decide

theorem test_hyps_StepKeepsInvariant :
    (probing .armedAbove 1 1 false true).Inv ∧
      seen (fun t => t.tstate == .fired) (step (probing .armedAbove 1 1 false true)) = true :=
  ⟨test_probing_inv (by decide) (.inr rfl) (by decide), by decide⟩

theorem test_hyps_InvariantNeverStuck : (checking .armedBelow 127).Inv := test_checking_inv (by decide)

theorem test_hyps_StepKeepsBufferCanonical :
    Memory.wf (reading [1500000] (capturing 2 3)).buf = true ∧
      seen (fun t => t.buf != []) (step (reading [1500000] (capturing 2 3))) = true := by decide

theorem test_hyps_MaxcycNeverChanges : seen (fun _ => true) (step (capturing 1 3)) = true := by decide

theorem test_hyps_CommandsFinishWithinBound :
    (ready.Inv ∧ ready.busy = false ∧ seen (fun t => t.busy) (exec (.acq 128) ready) = true) ∧
    ((checking .armedBelow 0).Inv ∧ (checking .armedBelow 0).ph ≠ .idle) :=
  ⟨⟨test_ready_inv, by decide, by decide⟩, test_checking_inv (by decide), by decide⟩

/-- A block in a capture before a `WAIT`, and one whose list is empty. -/
theorem test_hyps_FairRunsEnd :
    State.Inv { capturing 0 1 with script := [.wait], ie := false, turns := ⟨[], 0⟩ } ∧ (capturing 0 1).busy = true ∧
    { capturing 0 1 with script := [.wait] }.script = .wait :: [] ∧
    (∀ x ∈ [HostStmt.wait], x ≠ .resetInput true) ∧ ready.Inv :=
  ⟨test_inv_hostSide (test_capturing_inv (by decide)) _ _ _, by decide, by decide, by decide, test_ready_inv⟩

/-- The two thresholds, each from both sides, and the interval that decides at 1000 ms. -/
theorem test_hyps_ModeSelectionRule :
    let setting (us : Word) (label : Nat) : Scheduler.TimebaseSetting := ⟨us, label, .ms⟩
    ((setting 0 1000).intervalMicroseconds = 0 ∧ 1000 ≤ (setting 0 1000).labelValue) ∧
    (¬((setting 1 1000).intervalMicroseconds = 0 ∧ 1000 ≤ (setting 1 1000).labelValue) ∧
      101 ≤ (setting 1 1000).labelValue) ∧
    (¬((setting 0 101).intervalMicroseconds = 0 ∧ 1000 ≤ (setting 0 101).labelValue) ∧
      101 ≤ (setting 0 101).labelValue) ∧
    (setting 0 100).labelValue < 101 := by decide

theorem test_hyps_RedrawEveryRPlusOneTicks : 0 < 1 ∧ 2 < 3 := by decide

theorem test_hyps_IndexAdjustmentStaysInTable :
    0 < 5 ∧ ((0 : Int) + -1 < 0) ∧ ((5 : Int) ≤ 4 + 1) ∧ (0 ≤ (3 : Int) + 1 ∧ (3 : Int) + 1 < 5) := by decide

end Sys2Proof.Tests
end

section
/-! SUPPORT. What an engine step can do, as one inversion lemma over the phases. -/

namespace Sys2Proof.Machine

variable {s t : State}

theorem engineStep_idle (hp : s.ph = .idle) : engineStep s = .next s := by
  unfold engineStep; rw [hp]

/-- All that an engine step can do, with the guards of the phase it is taken in (10_state.md R38, R40). -/
inductive EngineEffect (s : State) : State → Prop where
  /-- An idle engine has no step. -/
  | idle (hp : s.ph = .idle) : EngineEffect s s
  /-- The budget is used up (42_trigger.md R153). -/
  | gaveUp (hp : s.ph = .trigCheck) (ha : s.attempts.toNat = s.maxcyc.cycles) :
      EngineEffect s (s.setTState .gaveUp).afterSearch
  /-- A new probe (42_trigger.md R153). -/
  | startProbe (hp : s.ph = .trigCheck) (ha : s.attempts.toNat ≠ s.maxcyc.cycles) : EngineEffect s s.startProbe
  /-- One sample of a probe (42_trigger.md R154). -/
  | probeSample (hp : s.ph = .trigProbe) (hj : s.j < s.probeW) (hm : s.scaleMv ≠ 0) :
      EngineEffect s ((pacedSample s).2.foldProbe (s.quantize (s.reading 0)))
  /-- A complete probe is evaluated, armed below (42_trigger.md R155). -/
  | evaluatedBelow (hp : s.ph = .trigProbe) (hj : s.j = s.probeW) (ht : s.tstate = .armedBelow) :
      EngineEffect s
        { s.countAttempt.setTState (if s.pb then .armedAbove else .armedBelow) with ph := .trigCheck }
  /-- A complete probe fires (42_trigger.md R155). -/
  | fired (hp : s.ph = .trigProbe) (hj : s.j = s.probeW) (ht : s.tstate = .armedAbove) (ha : s.pa = true) :
      EngineEffect s (s.countAttempt.setTState .fired).afterSearch
  /-- A complete probe is evaluated, armed above, and does not fire (42_trigger.md R155). -/
  | evaluatedAbove (hp : s.ph = .trigProbe) (hj : s.j = s.probeW) (ht : s.tstate = .armedAbove) (ha : s.pa = false) :
      EngineEffect s { s.countAttempt with ph := .trigCheck }
  /-- One sample of a capture (41_acquisition.md R131). -/
  | captured (hp : s.ph = .captLoop) (hn : s.i < s.n) (hi : s.i.toNat < 128) (hm : s.scaleMv ≠ 0) :
      EngineEffect s (storeCaptured (s.quantize (s.reading 0)) (pacedSample s).2)
  /-- The capture is over (41_acquisition.md R131). -/
  | captureOver (hp : s.ph = .captLoop) (hn : ¬s.i < s.n) : EngineEffect s s.finish
  /-- One sample stored at `IDX` (41_acquisition.md R134). -/
  | put (hp : s.ph = .putOne) (hm : s.scaleMv ≠ 0) :
      EngineEffect s (s.afterReading.setCell s.idx.toNat (s.quantize (s.reading 0))).finish
  /-- One sample appended (43_buffer.md R180). -/
  | rolled (hp : s.ph = .rollOne) (hm : s.scaleMv ≠ 0) :
      EngineEffect s (s.afterReading.shiftAppend (s.quantize (s.reading 0))).finish
  /-- All cells zeroed (43_buffer.md R183). -/
  | cleared (hp : s.ph = .clrAll) : EngineEffect s s.clearBuf.finish

theorem engineStep_effect (hst : engineStep s = .next t) : EngineEffect s t := by
  cases hp : s.ph with
  | idle => rw [engineStep_idle hp] at hst; cases hst; exact .idle hp
  | trigCheck =>
    obtain ⟨ha, rfl⟩ | ⟨ha, rfl⟩ := trigCheckStep_next.1 (engineStep_trigCheck hp ▸ hst)
    · exact .gaveUp hp ha
    · exact .startProbe hp ha
  | trigProbe =>
    obtain ⟨hj, hm, rfl⟩ | ⟨hj, hev⟩ := trigProbeStep_next.1 (engineStep_trigProbe hp ▸ hst)
    · exact .probeSample hp hj hm
    · obtain ⟨ht, rfl⟩ | ⟨ht, ha, rfl⟩ | ⟨ht, ha, rfl⟩ := evaluateProbe_next.1 hev
      · exact .evaluatedBelow hp hj ht
      · exact .fired hp hj ht ha
      · exact .evaluatedAbove hp hj ht ha
  | captLoop =>
    obtain ⟨hn, hi, hm, rfl⟩ | ⟨hn, rfl⟩ := captLoopStep_next.1 (engineStep_captLoop hp ▸ hst)
    · exact .captured hp hn hi hm
    · exact .captureOver hp hn
  | putOne =>
    obtain ⟨hm, rfl⟩ := putOneStep_next.1 (engineStep_putOne hp ▸ hst)
    exact .put hp hm
  | rollOne =>
    obtain ⟨hm, rfl⟩ := rollOneStep_next.1 (engineStep_rollOne hp ▸ hst)
    exact .rolled hp hm
  | clrAll =>
    obtain rfl := clrAllStep_next.1 (engineStep_clrAll hp ▸ hst)
    exact .cleared hp

end Sys2Proof.Machine
end

section
/-! SUPPORT. The invariant: what keeps it, one lemma for each kind of update, host's and engine's. -/

namespace Sys2Proof

theorem TriggerVariant.cycles_le (v : TriggerVariant) : v.cycles ≤ 256 := by cases v <;> decide

end Sys2Proof

namespace Sys2Proof.Machine

variable {s t : State}

/-! ### The reset state and the invariant's first consequences -/

theorem State.resetHeld_of_released (h : s.resetAsserted = false) : s.ResetHeld := fun ha => by
  rw [h] at ha; cases ha

/-- The reset state meets the invariant at either level of the reset input, whatever the environment. -/
theorem inv_resetBlock (s : State) (level : Bool) : State.Inv { s.resetBlock with resetAsserted := level } := by
  constructor <;> simp [State.reset, Phase.searching, Memory.wf]
  exact fun _ => rfl

theorem Phase.not_searching {p : Phase} (hc : p ≠ .trigCheck := by decide) (hp : p ≠ .trigProbe := by decide) :
    ¬p.searching :=
  fun hs => hs.elim hc hp

/-- No sample is below the level and not below it. -/
theorem sampleBelow_above_exclusive (b : Byte) (level : Word) :
    ¬(sampleBelow b level = true ∧ sampleAbove b level = true) := by
  simp [sampleBelow, sampleAbove]

theorem Phase.not_searching_idle : ¬Phase.searching .idle := not_searching

theorem Phase.ne_of_searching {p q : Phase} (hp : p.searching) (hq : ¬q.searching) : p ≠ q := fun e => hq (e ▸ hp)

namespace State.Inv

variable (h : s.Inv)
include h

theorem idle_of_not_busy (hb : s.busy = false) : s.ph = .idle := by
  by_contra hp
  rw [h.busyIff.2 hp] at hb; cases hb

/-- The reset input is not asserted while a command runs. -/
theorem released (hp : s.ph ≠ .idle) : s.resetAsserted = false :=
  eq_false_of_ne_true fun ha => hp (by rw [← h.resetHeld ha]; rfl)

/-! ### What the host does -/

/-- The invariant does not speak of the model's record of the host. -/
theorem hostSide (d : Draws Agent) (u : Nat) (r : List BusRead) (l : List HostStmt) :
    State.Inv { s with turns := d, unspecDraws := u, reads := r, script := l } :=
  { h with
    resetHeld := fun ha =>
      congrArg (fun v : State => { v with turns := d, unspecDraws := u, reads := r, script := l }) (h.resetHeld ha) }

/-- Outside a search the trigger state is not `ArmedAbove`. -/
theorem not_armedAbove (hp : ¬s.ph.searching) : s.tstate ≠ .armedAbove := fun ht => hp (h.armedAboveSearching ht).1

/-- Acceptance of a command that does not search. -/
theorem accept (hb : s.busy = false) (hr : s.resetAsserted = false) {c : Command} {p : Phase} {n i : Byte}
    {idx : BitVec 7} (hp : p ≠ .idle) (hn : ¬p.searching) (hs : p ≠ .clrAll → s.scaleMv ≠ 0)
    (hc : p = .captLoop → i.toNat ≤ n.toNat ∧ n.toNat ≤ 128) :
    State.Inv { s.accept c p with n := n, i := i, idx := idx } :=
  have hi : ¬s.ph.searching := h.idle_of_not_busy hb ▸ Phase.not_searching
  { h with
    busyIff := iff_of_true rfl hp
    doneIdle := fun hd => by cases hd
    configured := fun _ => hs
    captRange := hc
    searchOwner := fun hx => absurd hx hn
    searchArmed := fun hx => absurd hx hn
    probeIndex := fun hx => absurd (.inr hx) hn
    probeExclusive := fun hx => absurd (.inr hx) hn
    levelLatched := fun hx => absurd hx hn
    armedAboveSearching := fun ht => absurd ht (h.not_armedAbove hi)
    armedBelowFresh := fun ht _ => h.armedBelowFresh ht hi
    resetHeld := resetHeld_of_released hr }

/-- Acceptance of a command that searches (42_trigger.md R152). -/
theorem acceptSearch (hr : s.resetAsserted = false) {c : Command} {n : Byte}
    (hc : c = .trig ∨ c = .acq ∧ n.toNat ≤ 128) (hs : s.scaleMv ≠ 0) :
    State.Inv { (s.accept c .trigCheck).searchInit with n := n } :=
  have hp : Phase.searching .trigCheck := .inl rfl
  { h with
    busyIff := iff_of_true rfl fun hx => by cases hx
    doneIdle := fun hd => by cases hd
    configured := fun _ _ => hs
    attemptsLe := Nat.zero_le _
    captRange := fun hx => by cases hx
    searchOwner := fun _ => hc
    searchArmed := fun _ => .inl rfl
    probeIndex := fun hx => by cases hx
    probeExclusive := fun hx => by cases hx
    levelLatched := fun _ => rfl
    armedAboveSearching := fun ht => by cases ht
    armedBelowFresh := fun _ hx => absurd hp hx
    firedAttempts := fun ht => by cases ht
    gaveUpAttempts := fun ht => by cases ht
    resetHeld := resetHeld_of_released hr }

/-- Every acceptance keeps the invariant (10_state.md R45). -/
theorem acceptOf {i : Instr} (hb : s.busy = false) (hr : s.resetAsserted = false) (hw : i.wellFormed = true)
    (hs : samples i = true → s.scaleMv ≠ 0) : (acceptOf i s).Inv := by
  cases i with
  | capt n =>
    exact h.accept hb hr (idx := s.idx) (by decide) Phase.not_searching (fun _ => hs rfl)
      fun _ => ⟨Nat.zero_le _, of_decide_eq_true hw⟩
  | put k =>
    exact h.accept hb hr (n := s.n) (i := s.i) (by decide) Phase.not_searching (fun _ => hs rfl) (fun hx => by cases hx)
  | roll =>
    exact h.accept hb hr (n := s.n) (i := s.i) (idx := s.idx) (by decide) Phase.not_searching (fun _ => hs rfl)
      (fun hx => by cases hx)
  | trig => exact h.acceptSearch hr (n := s.n) (.inl rfl) (hs rfl)
  | acq n => exact h.acceptSearch hr (.inr ⟨rfl, of_decide_eq_true hw⟩) (hs rfl)
  | clr =>
    exact h.accept hb hr (n := s.n) (i := s.i) (idx := s.idx) (by decide) Phase.not_searching (fun hx => absurd rfl hx)
      (fun hx => by cases hx)

/-- Every access to a block that is not held at reset keeps the invariant. -/
theorem accessEffect (hr : s.resetAsserted = false) (he : AccessEffect s t) : t.Inv := by
  have hq : ∀ {p : Prop}, s.busy = false → s.ph ≠ .idle → p := fun hb hp => absurd (h.idle_of_not_busy hb) hp
  have hn : ∀ {p : Prop}, s.busy = false → s.ph.searching → p := fun hb hp =>
    absurd (h.idle_of_not_busy hb ▸ hp) Phase.not_searching
  have hr' := resetHeld_of_released (s := t) (he.environment.2.1.trans hr)
  cases he with
  | read u r => exact h.hostSide s.turns u r s.script
  | accepted i hb hw hs => exact h.acceptOf hb hr hw hs
  | ack => exact { h with doneIdle := fun hd => (by cases hd), resetHeld := hr' }
  | scale v hb hv =>
    exact { h with configured := fun hp => hq hb hp, levelLatched := fun hp => hn hb hp, resetHeld := hr' }
  | trigger v hb => exact { h with levelLatched := fun hp => hn hb hp, resetHeld := hr' }
  | probe v hb hv => exact { h with probeRange := hv, probeIndex := fun hp => hn hb (.inr hp), resetHeld := hr' }
  | refusedWrite | refusedRead | cleared | control | attenuation | interval | nothing =>
    exact { h with resetHeld := hr' }

/-- The reset input at either level (70_reset_and_hazards.md R250). -/
theorem driveReset (level : Bool) : (s.driveReset level).Inv := by
  cases level with
  | true => exact inv_resetBlock s true
  | false =>
    cases ha : s.resetAsserted with
    | true => rw [driveReset_release s ha]; exact inv_resetBlock s false
    | false => rwa [driveReset_released s ha]

/-- Every step of the outside world keeps the invariant. -/
theorem hostStep (hst : hostStep s = .next t) : t.Inv := by
  have hpop (u r) : State.Inv { s.popStmt with unspecDraws := u, reads := r } := h.hostSide s.turns u r s.script.tail
  obtain ⟨-, rfl⟩ | ⟨a, rest, -, hr, he⟩ | ⟨a, rest, u, r, -, -, rfl⟩ | ⟨rest, u, r, -, rfl | rfl⟩ |
    ⟨level, rest, -, rfl⟩ := hostStep_cases_held h.resetHeld hst
  · exact h
  · exact (hpop s.unspecDraws s.reads).accessEffect hr he
  · exact hpop u r
  · exact h.hostSide s.turns u r s.script
  · exact hpop u r
  · exact (hpop s.unspecDraws s.reads).driveReset level

/-! ### What the engine does -/

/-- A sample changes `T0` and the environment only. -/
theorem pacedSample (hp : s.ph ≠ .idle) : (pacedSample s).2.Inv := by
  have hr := h.released hp
  obtain ⟨t0, now, us, e⟩ := pacedSample_frame (s := s)
  rw [e]
  exact { h with resetHeld := resetHeld_of_released hr }

/-- A command that is not searching finishes. -/
theorem finish (hp : s.ph ≠ .idle) (hn : ¬s.ph.searching) : s.finish.Inv :=
  { h with
    busyIff := iff_of_false (fun hx => by cases hx) fun hx => hx rfl
    doneIdle := fun _ => rfl
    configured := fun hx => absurd rfl hx
    captRange := fun hx => by cases hx
    searchOwner := fun hx => absurd hx Phase.not_searching_idle
    searchArmed := fun hx => absurd hx Phase.not_searching_idle
    probeIndex := fun hx => by cases hx
    probeExclusive := fun hx => by cases hx
    levelLatched := fun hx => absurd hx Phase.not_searching_idle
    armedAboveSearching := fun ht => absurd ht (h.not_armedAbove hn)
    armedBelowFresh := fun ht _ => h.armedBelowFresh ht hn
    resetHeld := resetHeld_of_released (h.released hp) }

/-- The end of a search, fired or given up: `finish` for `TRIG`, the capture for `ACQ` (42_trigger.md R156, R158). -/
theorem afterSearch (hs : s.ph.searching) {ts : TState} {a : BitVec 9} (ha : a.toNat ≤ s.maxcyc.cycles)
    (he : ts = .fired ∧ 2 ≤ a.toNat ∨ ts = .gaveUp ∧ a.toNat = s.maxcyc.cycles) :
    (State.afterSearch { s with tstate := ts, attempts := a }).Inv := by
  have hp : s.ph ≠ .idle := Phase.ne_of_searching hs Phase.not_searching
  have hr := h.released hp
  have hab : ts ≠ .armedAbove := by rintro rfl; simp at he
  have hbe : ts ≠ .armedBelow := by rintro rfl; simp at he
  have hf : ts = .fired → 2 ≤ a.toNat := by rintro rfl; simpa using he
  have hg : ts = .gaveUp → a.toNat = s.maxcyc.cycles := by rintro rfl; simpa using he
  obtain ho | ⟨ho, hn⟩ := h.searchOwner hs
  · rw [afterSearch_trig (s := { s with tstate := ts, attempts := a }) ho]
    exact { h with
      busyIff := iff_of_false (fun hx => by cases hx) fun hx => hx rfl
      doneIdle := fun _ => rfl
      configured := fun hx => absurd rfl hx
      attemptsLe := ha
      captRange := fun hx => by cases hx
      searchOwner := fun hx => absurd hx Phase.not_searching_idle
      searchArmed := fun hx => absurd hx Phase.not_searching_idle
      probeIndex := fun hx => by cases hx
      probeExclusive := fun hx => by cases hx
      levelLatched := fun hx => absurd hx Phase.not_searching_idle
      armedAboveSearching := fun ht => absurd ht hab
      armedBelowFresh := fun ht => absurd ht hbe
      firedAttempts := hf
      gaveUpAttempts := hg
      resetHeld := resetHeld_of_released hr }
  · rw [afterSearch_acq (s := { s with tstate := ts, attempts := a }) ho]
    have hnc : ¬Phase.searching .captLoop := Phase.not_searching
    exact { h with
      busyIff := iff_of_true (h.busyIff.2 hp) fun hx => by cases hx
      configured := fun _ _ => h.configured hp (Phase.ne_of_searching hs Phase.not_searching)
      attemptsLe := ha
      captRange := fun _ => ⟨Nat.zero_le _, hn⟩
      searchOwner := fun hx => absurd hx hnc
      searchArmed := fun hx => absurd hx hnc
      probeIndex := fun hx => by cases hx
      probeExclusive := fun hx => by cases hx
      levelLatched := fun hx => absurd hx hnc
      armedAboveSearching := fun ht => absurd ht hab
      armedBelowFresh := fun ht => absurd ht hbe
      firedAttempts := hf
      gaveUpAttempts := hg
      resetHeld := resetHeld_of_released hr }

/-- A search goes on, in either of its phases (42_trigger.md R153 to R155). -/
theorem withinSearch (hs : s.ph.searching) {p : Phase} (hp : p.searching) {ts : TState} {a : BitVec 9} {j : Byte}
    {pb pa : Bool} (ha : a.toNat ≤ s.maxcyc.cycles) (ht : ts = .armedBelow ∨ ts = .armedAbove ∧ 1 ≤ a.toNat)
    (hj : p = .trigProbe → j.toNat ≤ s.probeW.toNat ∧ a.toNat < s.maxcyc.cycles)
    (hx : p = .trigProbe → j ≠ 0 → ¬(pb = true ∧ pa = true)) :
    State.Inv { s with ph := p, tstate := ts, attempts := a, j := j, pb := pb, pa := pa } :=
  have hi : s.ph ≠ .idle := Phase.ne_of_searching hs Phase.not_searching
  { h with
    busyIff := iff_of_true (h.busyIff.2 hi) (Phase.ne_of_searching hp Phase.not_searching)
    configured := fun _ _ => h.configured hi (Phase.ne_of_searching hs Phase.not_searching)
    attemptsLe := ha
    captRange := fun hc => absurd hc (Phase.ne_of_searching hp Phase.not_searching)
    searchOwner := fun _ => h.searchOwner hs
    searchArmed := fun _ => ht.imp_right And.left
    probeIndex := hj
    probeExclusive := hx
    levelLatched := fun _ => h.levelLatched hs
    armedAboveSearching := fun e => ⟨hp, ht.elim (fun hb => by rw [hb] at e; cases e) And.right⟩
    armedBelowFresh := fun _ hn => absurd hp hn
    firedAttempts := fun e => by simp [show ts = .fired from e] at ht
    gaveUpAttempts := fun e => by simp [show ts = .gaveUp from e] at ht
    resetHeld := resetHeld_of_released (h.released hi) }

/-- During a search the trigger state is armed, above after at least one attempt (10_state.md R41). -/
theorem armed (hs : s.ph.searching) : s.tstate = .armedBelow ∨ s.tstate = .armedAbove ∧ 1 ≤ s.attempts.toNat :=
  (h.searchArmed hs).imp_right fun ht => ⟨ht, (h.armedAboveSearching ht).2⟩

/-- The attempt count does not overflow in a probe. -/
theorem attempts_succ (hp : s.ph = .trigProbe) : (s.attempts + 1).toNat = s.attempts.toNat + 1 := by
  have hlt := (h.probeIndex hp).2
  have hmax := s.maxcyc.cycles_le
  exact BitVec.toNat_add_of_lt (by simp; omega)

/-- One more sample of a probe (42_trigger.md R154). -/
theorem foldProbe (hp : s.ph = .trigProbe) (hj : s.j < s.probeW) (b : Byte) : (s.foldProbe b).Inv := by
  have hs : s.ph.searching := .inr hp
  have hj1 : (s.j + 1).toNat = s.j.toNat + 1 := BitVec.toNat_add_of_lt (by have := h.probeRange.2; bv_omega)
  refine h.withinSearch hs hs h.attemptsLe (h.armed hs) (fun _ => ⟨?_, (h.probeIndex hp).2⟩) fun _ _ hx => ?_
  · rw [hj1]; exact hj
  · simp only [Bool.and_eq_true] at hx
    exact sampleBelow_above_exclusive b s.trigLevel ⟨hx.1.2, hx.2.2⟩

/-- One more sample of a capture (41_acquisition.md R131). -/
theorem storeCaptured (hp : s.ph = .captLoop) (hlt : s.i < s.n) (b : Byte) : (storeCaptured b s).Inv := by
  have hi : s.ph ≠ .idle := by rw [hp]; decide
  have hlt' : s.i.toNat < s.n.toNat := hlt
  have hn := (h.captRange hp).2
  have hi1 : (s.i + 1).toNat = s.i.toNat + 1 := BitVec.toNat_add_of_lt (by simp; omega)
  exact { h with
    bufWf := Memory.wf_write_cell h.bufWf (by omega)
    captRange := fun _ => ⟨hi1 ▸ hlt, hn⟩
    resetHeld := resetHeld_of_released (h.released hi) }

/-- A command of one step stores what a sample gives, and finishes (41_acquisition.md R134, 43_buffer.md R181). -/
theorem storeAndFinish (hp : s.ph ≠ .idle) (hn : ¬s.ph.searching) {m : Memory} (hm : Memory.wf m = true)
    (d : Draws Word) : (State.finish { s with buf := m, adc := d }).Inv :=
  have hv : State.Inv { s with buf := m, adc := d } :=
    { h with bufWf := hm, resetHeld := resetHeld_of_released (h.released hp) }
  hv.finish hp hn

/-- Every step of the engine keeps the invariant. -/
theorem engineStep (hst : engineStep s = .next t) : t.Inv := by
  have hpaced (hp : s.ph ≠ .idle) := h.pacedSample hp
  obtain ⟨t0, now, us, e⟩ := pacedSample_frame (s := s)
  have hsucc (hp : s.ph = .trigProbe) : (s.attempts + 1).toNat = s.attempts.toNat + 1 := h.attempts_succ hp
  have hcount (hp : s.ph = .trigProbe) : (s.attempts + 1).toNat ≤ s.maxcyc.cycles :=
    hsucc hp ▸ (h.probeIndex hp).2
  have hpos (hp : s.ph = .trigProbe) : 1 ≤ (s.attempts + 1).toNat := hsucc hp ▸ Nat.le_add_left 1 _
  cases engineStep_effect hst with
  | idle => exact h
  | gaveUp hp ha => exact h.afterSearch (.inl hp) h.attemptsLe (.inr ⟨rfl, ha⟩)
  | startProbe hp ha =>
    exact h.withinSearch (.inl hp) (.inr rfl) h.attemptsLe (h.armed (.inl hp))
      (fun _ => ⟨Nat.zero_le _, Nat.lt_of_le_of_ne h.attemptsLe ha⟩) (fun _ hj => absurd rfl hj)
  | probeSample hp hj =>
    have hv := hpaced (by rw [hp]; decide)
    rw [e] at hv ⊢
    exact hv.foldProbe hp hj _
  | evaluatedBelow hp =>
    refine h.withinSearch (.inr hp) (.inl rfl) (hcount hp) ?_ (fun hx => by cases hx) (fun hx => by cases hx)
    cases s.pb
    · exact .inl rfl
    · exact .inr ⟨rfl, hpos hp⟩
  | fired hp _ ht =>
    exact h.afterSearch (.inr hp) (hcount hp)
      (.inl ⟨rfl, hsucc hp ▸ Nat.succ_le_succ (h.armedAboveSearching ht).2⟩)
  | evaluatedAbove hp _ ht =>
    exact h.withinSearch (.inr hp) (.inl rfl) (hcount hp) (.inr ⟨ht, hpos hp⟩) (fun hx => by cases hx)
      (fun hx => by cases hx)
  | captured hp hn =>
    have hv := hpaced (by rw [hp]; decide)
    rw [e] at hv ⊢
    exact hv.storeCaptured hp hn _
  | captureOver hp => exact h.finish (by rw [hp]; decide) (hp ▸ Phase.not_searching)
  | put hp =>
    exact h.storeAndFinish (by rw [hp]; decide) (hp ▸ Phase.not_searching)
      (Memory.wf_write_cell h.bufWf s.idx.isLt) _
  | rolled hp =>
    exact h.storeAndFinish (by rw [hp]; decide) (hp ▸ Phase.not_searching) (Memory.wf_shiftAppend h.bufWf) _
  | cleared hp =>
    exact h.storeAndFinish (by rw [hp]; decide) (hp ▸ Phase.not_searching) Memory.wf_nil s.adc

/-- Every step keeps the invariant, whoever moves. -/
theorem step (hst : step s = .next t) : t.Inv := by
  obtain ⟨d, ⟨-, hh⟩ | ⟨-, -, he⟩⟩ := step_cases hst
  · exact (h.hostSide d s.unspecDraws s.reads s.script).hostStep hh
  · exact (h.hostSide d s.unspecDraws s.reads s.script).engineStep he

end State.Inv

/-- Settles O51: each host's and each engine's step keeps the invariant. -/
theorem stepKeepsInvariant : Obligations.StepKeepsInvariant := fun _ _ h hst => h.step hst

/-- Settles O50: the reset state is what the reset input leaves. -/
theorem invariantAtReset : Obligations.InvariantAtReset := inv_resetBlock State.reset false

end Sys2Proof.Machine
end

section
/-! SUPPORT. Sequencer registers that a phase does not use: the host's side commutes with any change of them, and each
engine step reads only the used ones. -/

namespace Sys2Proof.Machine

variable {s t : State}

/-! ### Updates that neither read nor write the sequencer -/

/-- The state with the phase and the sequencer registers of another (10_state.md R38, R39). -/
def State.withSequencer (s r : State) : State :=
  { s with ph := r.ph, opc := r.opc, n := r.n, idx := r.idx, i := r.i, j := r.j, pb := r.pb, pa := r.pa, t0 := r.t0 }

/-- An update that neither reads nor writes the phase and the sequencer registers. -/
def Blind (f : State → State) : Prop := ∀ s r : State, f (s.withSequencer r) = (f s).withSequencer r

/-- What is forgotten is decided by the sequencer alone. -/
theorem forgetScratch_withSequencer (s r : State) :
    (s.withSequencer r).forgetScratch = s.withSequencer r.forgetScratch := by
  cases hp : r.ph <;> simp only [State.forgetScratch, State.withSequencer, hp]

theorem forgetScratch_eq_withSequencer (s : State) : s.forgetScratch = s.withSequencer s.forgetScratch :=
  forgetScratch_withSequencer s s

@[simp] theorem forgetScratch_ph (s : State) : s.forgetScratch.ph = s.ph := by
  cases hp : s.ph <;> simp only [State.forgetScratch, hp]
@[simp] theorem forgetScratch_busy (s : State) : s.forgetScratch.busy = s.busy := by
  rw [forgetScratch_eq_withSequencer s]; rfl
@[simp] theorem forgetScratch_scaleMv (s : State) : s.forgetScratch.scaleMv = s.scaleMv := by
  rw [forgetScratch_eq_withSequencer s]; rfl
@[simp] theorem forgetScratch_resetAsserted (s : State) : s.forgetScratch.resetAsserted = s.resetAsserted := by
  rw [forgetScratch_eq_withSequencer s]; rfl
@[simp] theorem forgetScratch_script (s : State) : s.forgetScratch.script = s.script := by
  rw [forgetScratch_eq_withSequencer s]; rfl
@[simp] theorem forgetScratch_turn (s : State) : s.forgetScratch.turn = s.turn := by
  rw [forgetScratch_eq_withSequencer s]; rfl
@[simp] theorem forgetScratch_resetBlock (s : State) : s.forgetScratch.resetBlock = s.resetBlock := by
  rw [forgetScratch_eq_withSequencer s]; rfl

theorem blind_raise (e : ErrBit) : Blind (State.raise e) := fun _ _ => rfl

theorem Blind.forgetScratch {f : State → State} (hf : Blind f) (s : State) :
    (f s).forgetScratch = f s.forgetScratch := by
  calc (f s).forgetScratch = ((f s).withSequencer s).forgetScratch := by rw [← hf s s]; rfl
    _ = (f s).withSequencer s.forgetScratch := forgetScratch_withSequencer _ _
    _ = f (s.withSequencer s.forgetScratch) := (hf _ _).symm
    _ = f s.forgetScratch := by rw [← forgetScratch_eq_withSequencer]

theorem forgetScratch_forgetScratch (s : State) : s.forgetScratch.forgetScratch = s.forgetScratch := by
  cases hp : s.ph <;> simp +contextual [State.forgetScratch, hp]

/-! ### The bus -/

@[simp] theorem withSequencer_busy (s q : State) : (s.withSequencer q).busy = s.busy := rfl
@[simp] theorem withSequencer_cell (s q : State) (k : Nat) : (s.withSequencer q).cell k = s.cell k := rfl
@[simp] theorem withSequencer_cellWord (s q : State) (k : Nat) : (s.withSequencer q).cellWord k = s.cellWord k := rfl
@[simp] theorem withSequencer_unspecifiedWord (s q : State) :
    (s.withSequencer q).unspecifiedWord = s.unspecifiedWord := rfl
@[simp] theorem withSequencer_afterUnspecified (s q : State) :
    (s.withSequencer q).afterUnspecified = s.afterUnspecified.withSequencer q := rfl
@[simp] theorem withSequencer_regValue (r : Reg) (s q : State) : (s.withSequencer q).regValue r = s.regValue r := by
  cases r <;> rfl
@[simp] theorem withSequencer_regValueBusy (r : Reg) (u : Word) (s q : State) :
    (s.withSequencer q).regValueBusy u r = s.regValueBusy u r := by cases r <;> rfl

theorem readReg_withSequencer (r : Reg) (s q : State) :
    readReg r (s.withSequencer q) = ((readReg r s).1, (readReg r s).2.withSequencer q) := by
  unfold readReg
  simp only [withSequencer_busy, withSequencer_regValueBusy, withSequencer_regValue, withSequencer_unspecifiedWord]
  repeat' split
  all_goals rfl

theorem readBuf_withSequencer (k : Nat) (w : Width) (s q : State) :
    readBuf k w (s.withSequencer q) = ((readBuf k w s).1, (readBuf k w s).2.withSequencer q) := by
  cases w <;> cases hb : s.busy <;> simp [readBuf, hb]

theorem readValue_withSequencer (o : Byte) (w : Width) (s q : State) :
    readValue o w (s.withSequencer q) = ((readValue o w s).1, (readValue o w s).2.withSequencer q) := by
  unfold readValue
  split
  · exact readReg_withSequencer _ s q
  · exact readBuf_withSequencer _ w s q

theorem writeConfig_withSequencer (legal : Bool) {store : State → State} (hst : Blind store) :
    Blind (State.writeConfig legal store) := fun s q => by
  unfold State.writeConfig
  rw [show (s.withSequencer q).busy = s.busy from rfl]
  repeat' split
  exacts [rfl, rfl, hst s q]

/-- A write of any register but `CMD` leaves the sequencer alone. -/
theorem writeReg_withSequencer {r : Reg} (hr : r ≠ .cmd) (v : Word) (s q : State) :
    writeReg r v (s.withSequencer q) = mapNext (·.withSequencer q) (writeReg r v s) := by
  cases r <;> simp only [writeReg, mapNext]
  case cmd => exact absurd rfl hr
  case status => unfold writeStatus; split <;> rfl
  case ctrl => unfold writeCtrl; split <;> rfl
  case err => rfl
  case scaleMv | atten | intervalUs | trigUv | probeW =>
    exact congrArg _ (writeConfig_withSequencer _ (fun _ _ => rfl) s q)

/-- A poll of `WAIT` leaves the sequencer alone. -/
theorem blind_waitStep : Blind waitStep := fun s q => by
  unfold waitStep
  simp only [readReg_withSequencer]
  split <;> rfl

/-! ### Outcomes that differ in unused registers only -/

/-- An update that cannot tell what was forgotten, up to unused registers again. -/
def Respects (f : State → State) : Prop := ∀ s : State, (f s.forgetScratch).forgetScratch = (f s).forgetScratch

theorem Blind.respects {f : State → State} (hf : Blind f) : Respects f := fun s => by
  rw [← hf.forgetScratch, forgetScratch_forgetScratch]

/-- Acceptance sets every register that its command uses (10_state.md R45). -/
theorem respects_acceptOf (i : Instr) : Respects (acceptOf i) := fun s => by
  rw [forgetScratch_eq_withSequencer s]
  cases i <;> rfl

theorem respects_holdReset : Respects State.holdReset := fun s => by
  unfold State.holdReset
  rw [forgetScratch_resetAsserted, forgetScratch_resetBlock]
  split
  · rfl
  · exact forgetScratch_forgetScratch s

theorem respects_driveReset (level : Bool) : Respects (State.driveReset level) := fun s => by
  have hb : Blind fun v => { v with resetAsserted := level } := fun _ _ => rfl
  unfold State.driveReset
  rw [forgetScratch_resetAsserted, forgetScratch_resetBlock]
  split
  · rfl
  · exact hb.respects s

/-- The same outcome, up to the registers that the phase does not use. -/
def SameUsed (o o' : Outcome) : Prop := mapNext State.forgetScratch o = mapNext State.forgetScratch o'

theorem SameUsed.next {u v : State} (h : u.forgetScratch = v.forgetScratch) : SameUsed (.next u) (.next v) :=
  congrArg Host.Outcome.next h

theorem Respects.sameUsed {f : State → State} (hf : Respects f) (s : State) :
    SameUsed (.next (f s.forgetScratch)) (.next (f s)) := .next (hf s)

theorem Blind.sameUsed {f : State → State} (hf : Blind f) (s : State) :
    SameUsed (.next (f s.forgetScratch)) (.next (f s)) := hf.respects.sameUsed s

theorem SameUsed.map {f : State → State} (hf : Respects f) {o o' : Outcome} (h : SameUsed o o') :
    SameUsed (mapNext f o) (mapNext f o') := by
  have hm (o : Outcome) : mapNext State.forgetScratch (mapNext f o) =
      mapNext State.forgetScratch (mapNext f (mapNext State.forgetScratch o)) := by
    cases o with
    | next v => exact congrArg Host.Outcome.next (hf v).symm
    | fault | refused => rfl
  unfold SameUsed
  rw [hm o, h, ← hm o']

/-- An outcome that neither depends on the sequencer nor changes it. -/
theorem sameUsed_of_withSequencer {o : State → Outcome}
    (ho : ∀ s q, o (s.withSequencer q) = mapNext (·.withSequencer q) (o s)) (s : State) :
    SameUsed (o s.forgetScratch) (o s) := by
  have h : o s = mapNext (·.withSequencer s) (o s) := ho s s
  unfold SameUsed
  rw [forgetScratch_eq_withSequencer s, ho]
  conv_rhs => rw [h]
  cases o s <;> simp only [mapNext, forgetScratch_withSequencer, forgetScratch_forgetScratch]

/-! ### The host's side -/

theorem exec_sameUsed (i : Instr) (s : State) : SameUsed (exec i s.forgetScratch) (exec i s) := by
  rw [exec_eq, exec_eq]
  unfold State.issue
  rw [forgetScratch_busy, forgetScratch_scaleMv]
  repeat' split
  · exact (blind_raise .bsy).sameUsed s
  · exact (blind_raise .arg).sameUsed s
  · exact (blind_raise .cfg).sameUsed s
  · exact (respects_acceptOf i).sameUsed s

theorem writeCmd_sameUsed (w : Word) (s : State) : SameUsed (writeCmd w s.forgetScratch) (writeCmd w s) := by
  unfold writeCmd
  rw [forgetScratch_busy]
  repeat' split
  · exact (blind_raise .bsy).sameUsed s
  · exact (blind_raise .op).sameUsed s
  · exact exec_sameUsed _ s

theorem performAccess_sameUsed (a : Access) (s : State) :
    SameUsed (performAccess a s.forgetScratch) (performAccess a s) := by
  unfold performAccess
  cases a with
  | read o w =>
    split
    · exact Blind.sameUsed (f := fun v => (v.raise .addr).record ⟨o, w, 0⟩) (fun _ _ => rfl) s
    · refine Blind.sameUsed (f := fun v => (readValue o w v).2.record ⟨o, w, (readValue o w v).1⟩) (fun v q => ?_) s
      simp only [readValue_withSequencer]; rfl
  | write o w v =>
    split
    · exact (blind_raise .addr).sameUsed s
    · simp only
      split
      · next r _ =>
        by_cases hr : r = .cmd
        · exact hr ▸ writeCmd_sameUsed v s
        · exact sameUsed_of_withSequencer (writeReg_withSequencer hr v) s
      · exact Blind.sameUsed (f := id) (fun _ _ => rfl) s

theorem hostStep_sameUsed (s : State) : SameUsed (hostStep s.forgetScratch) (hostStep s) := by
  have hp : s.forgetScratch.popStmt = s.popStmt.forgetScratch :=
    (Blind.forgetScratch (f := State.popStmt) (fun _ _ => rfl) s).symm
  unfold hostStep
  rw [forgetScratch_script, hp]
  split
  · exact Blind.sameUsed (f := id) (fun _ _ => rfl) s
  · exact (performAccess_sameUsed _ s.popStmt).map respects_holdReset
  · exact (blind_waitStep.sameUsed s).map respects_holdReset
  · exact (respects_driveReset _).sameUsed s.popStmt

/-! ### The engine's side -/

theorem withSample_sameUsed {p : State → Byte × State} {next : Byte → State → State} {s' s : State}
    (hm : s'.scaleMv = s.scaleMv)
    (h : (next (p s').1 (p s').2).forgetScratch = (next (p s).1 (p s).2).forgetScratch) :
    SameUsed (withSample p s' next) (withSample p s next) := by
  unfold withSample
  rw [hm]
  split
  · rfl
  · exact .next h

/-! States that agree but for the registers that their phase does not use. -/

section
variable {u v : State}

theorem forgetScratch_congr_idle (hp : u.ph = .idle)
    (h : { u with opc := v.opc, n := v.n, idx := v.idx, i := v.i, j := v.j, pb := v.pb, pa := v.pa, t0 := v.t0 } = v) :
    u.forgetScratch = v.forgetScratch := by
  rw [← h]; simp only [State.forgetScratch, hp]

theorem forgetScratch_congr_trigCheck (hp : u.ph = .trigCheck) (hn : u.opc = .acq → u.n = v.n)
    (h : { u with n := v.n, idx := v.idx, i := v.i, j := v.j, pb := v.pb, pa := v.pa, t0 := v.t0 } = v) :
    u.forgetScratch = v.forgetScratch := by
  rw [← h]; simp +contextual only [State.forgetScratch, hp, hn]

theorem forgetScratch_congr_trigProbe (hp : u.ph = .trigProbe) (hn : u.opc = .acq → u.n = v.n)
    (h : { u with n := v.n, idx := v.idx, i := v.i, t0 := v.t0 } = v) : u.forgetScratch = v.forgetScratch := by
  rw [← h]; simp +contextual only [State.forgetScratch, hp, hn]

theorem forgetScratch_congr_captLoop (hp : u.ph = .captLoop)
    (h : { u with opc := v.opc, idx := v.idx, j := v.j, pb := v.pb, pa := v.pa, t0 := v.t0 } = v) :
    u.forgetScratch = v.forgetScratch := by
  rw [← h]; simp only [State.forgetScratch, hp]

/-- A search goes on to the capture with the count it was given, or finishes. -/
theorem forgetScratch_congr_afterSearch (hn : u.opc = .acq → u.n = v.n)
    (h : { u with n := v.n, idx := v.idx, i := v.i, j := v.j, pb := v.pb, pa := v.pa, t0 := v.t0 } = v) :
    u.afterSearch.forgetScratch = v.afterSearch.forgetScratch := by
  have ho : u.opc = v.opc := by rw [← h]
  unfold State.afterSearch
  rw [← ho]
  split
  · next ha =>
    refine forgetScratch_congr_captLoop rfl ?_
    rw [← h]; simp only [hn ha]
  · refine forgetScratch_congr_idle rfl ?_
    rw [← h]; rfl

end

theorem captLoopStep_sameUsed (hp : s.ph = .captLoop) : SameUsed (captLoopStep s.forgetScratch) (captLoopStep s) := by
  have e : s.forgetScratch = { s with opc := .capt, idx := 0, j := 0, pb := false, pa := false, t0 := 0 } := by
    simp only [State.forgetScratch, hp]
  rw [e]
  unfold captLoopStep
  split
  · split
    · refine withSample_sameUsed rfl ?_
      simp only [pacedSample_fst, pacedSample_snd]
      split
      · exact forgetScratch_congr_captLoop hp rfl
      · exact forgetScratch_congr_captLoop hp rfl
    · rfl
  · rfl

theorem putOneStep_sameUsed (hp : s.ph = .putOne) : SameUsed (putOneStep s.forgetScratch) (putOneStep s) := by
  have e : s.forgetScratch = { s with opc := .capt, n := 0, i := 0, j := 0, pb := false, pa := false, t0 := 0 } := by
    simp only [State.forgetScratch, hp]
  rw [e]
  exact withSample_sameUsed rfl rfl

theorem rollOneStep_sameUsed (s : State) : SameUsed (rollOneStep s.forgetScratch) (rollOneStep s) := by
  rw [forgetScratch_eq_withSequencer s]
  exact withSample_sameUsed rfl rfl

theorem clrAllStep_sameUsed (s : State) : SameUsed (clrAllStep s.forgetScratch) (clrAllStep s) := by
  rw [forgetScratch_eq_withSequencer s]
  rfl

theorem trigCheckStep_sameUsed (hp : s.ph = .trigCheck) :
    SameUsed (trigCheckStep s.forgetScratch) (trigCheckStep s) := by
  obtain ⟨n, hn, e⟩ : ∃ n, (s.opc = .acq → n = s.n) ∧ s.forgetScratch =
      { s with n := n, idx := 0, i := 0, j := 0, pb := false, pa := false, t0 := 0 } :=
    ⟨if s.opc = .acq then s.n else 0, fun ho => if_pos ho, by simp only [State.forgetScratch, hp]⟩
  rw [e]
  unfold trigCheckStep
  split
  · exact .next (forgetScratch_congr_afterSearch hn rfl)
  · exact .next (forgetScratch_congr_trigProbe rfl hn rfl)

/-- The evaluation of a probe reads `PB` and `PA`, and the count of an `ACQ` goes on (42_trigger.md R155). -/
theorem evaluateProbe_sameUsed {u v : State} (hn : u.opc = .acq → u.n = v.n)
    (h : { u with n := v.n, idx := v.idx, i := v.i, t0 := v.t0 } = v) :
    SameUsed (evaluateProbe u) (evaluateProbe v) := by
  have ht : u.tstate = v.tstate := by rw [← h]
  have ha : u.pa = v.pa := by rw [← h]
  cases hv : v.tstate with
  | armedBelow =>
    rw [evaluateProbe_next.2 (.inl ⟨ht.trans hv, rfl⟩), evaluateProbe_next.2 (.inl ⟨hv, rfl⟩)]
    exact .next (forgetScratch_congr_trigCheck rfl hn (by rw [← h]; rfl))
  | armedAbove =>
    cases hp : v.pa with
    | true =>
      rw [evaluateProbe_next.2 (.inr (.inl ⟨ht.trans hv, ha.trans hp, rfl⟩)),
        evaluateProbe_next.2 (.inr (.inl ⟨hv, hp, rfl⟩))]
      exact .next (forgetScratch_congr_afterSearch hn (by rw [← h]; rfl))
    | false =>
      rw [evaluateProbe_next.2 (.inr (.inr ⟨ht.trans hv, ha.trans hp, rfl⟩)),
        evaluateProbe_next.2 (.inr (.inr ⟨hv, hp, rfl⟩))]
      exact .next (forgetScratch_congr_trigCheck rfl hn (by rw [← h]; rfl))
  | fired | gaveUp => simp only [evaluateProbe, ht, hv]; rfl

theorem trigProbeStep_sameUsed (hp : s.ph = .trigProbe) :
    SameUsed (trigProbeStep s.forgetScratch) (trigProbeStep s) := by
  obtain ⟨n, hn, e⟩ : ∃ n, (s.opc = .acq → n = s.n) ∧ s.forgetScratch =
      { s with n := n, idx := 0, i := 0, t0 := 0 } :=
    ⟨if s.opc = .acq then s.n else 0, fun ho => if_pos ho, by simp only [State.forgetScratch, hp]⟩
  rw [e]
  unfold trigProbeStep
  split
  · refine withSample_sameUsed rfl ?_
    simp only [pacedSample_fst, pacedSample_snd]
    split
    · exact forgetScratch_congr_trigProbe hp hn rfl
    · exact forgetScratch_congr_trigProbe hp hn rfl
  · split
    · exact evaluateProbe_sameUsed hn rfl
    · rfl

theorem engineStep_sameUsed (s : State) : SameUsed (engineStep s.forgetScratch) (engineStep s) := by
  unfold engineStep
  rw [forgetScratch_ph]
  split
  · next hp => exact .next (forgetScratch_forgetScratch s)
  · next hp => exact trigCheckStep_sameUsed hp
  · next hp => exact trigProbeStep_sameUsed hp
  · next hp => exact captLoopStep_sameUsed hp
  · next hp => exact putOneStep_sameUsed hp
  · exact rollOneStep_sameUsed s
  · exact clrAllStep_sameUsed s

theorem nextMover_forgetScratch (s : State) :
    nextMover s.forgetScratch = ((nextMover s).1, (nextMover s).2.forgetScratch) := by
  have ha : s.forgetScratch.afterTurn = s.afterTurn.forgetScratch :=
    (Blind.forgetScratch (f := State.afterTurn) (fun _ _ => rfl) s).symm
  unfold nextMover
  rw [forgetScratch_ph, forgetScratch_script, forgetScratch_turn, ha]
  repeat' split
  all_goals rfl

/-- Settles O56: neither agent's step can tell what was forgotten. -/
theorem unusedScratchIsUnobservable : Obligations.UnusedScratchIsUnobservable := fun s => by
  unfold step
  rw [nextMover_forgetScratch]
  obtain ⟨mover, t⟩ := nextMover s
  cases mover with
  | host => exact hostStep_sameUsed t
  | engine => exact engineStep_sameUsed t

end Sys2Proof.Machine
end

section
/-! SUPPORT. Full-width accesses to a register, and the writes of each group of registers. -/

namespace Sys2Proof.Machine

variable {s t : State}

/-! ### Accesses at a register's offset -/

theorem regAt_offset (r : Reg) : regAt r.offset = some r := by cases r <;> rfl

/-- The registers that a four-byte write may not touch are the results and `MAXCYC` (20_memory.md R64, R68). -/
theorem isError_write (r : Reg) (v : Word) :
    (Access.write r.offset .four v).isError = decide (r = .attempts ∨ r = .trigLevel ∨ r = .maxcyc) := by
  cases r <;> simp [Access.isError, Access.offset, Access.width, Access.isWrite, Width.bytes, Reg.offset]

/-- The one register that a four-byte read may not touch is `CMD` (20_memory.md R63, R68). -/
theorem isError_read (r : Reg) : (Access.read r.offset .four).isError = decide (r = .cmd) := by
  cases r <;> simp [Access.isError, Access.offset, Access.width, Access.isWrite, Width.bytes, Reg.offset]

/-- A legal four-byte write at a register's offset writes the register (20_memory.md R64). -/
theorem performAccess_write {r : Reg} (hr : ¬(r = .attempts ∨ r = .trigLevel ∨ r = .maxcyc)) (v : Word)
    (s : State) : performAccess (.write r.offset .four v) s = writeReg r v s := by
  simp [performAccess, isError_write, hr, regAt_offset]

/-- A legal four-byte read at a register's offset reads the register (20_memory.md R63). -/
theorem performAccess_read {r : Reg} (hr : r ≠ .cmd) (s : State) :
    performAccess (.read r.offset .four) s =
      .next ((readReg r s).2.record ⟨r.offset, .four, (readReg r s).1⟩) := by
  simp [performAccess, isError_read, hr, readValue, regAt_offset]

/-- A register with no UNSPECIFIED bits reads as it stands, busy or not (20_memory.md R74). -/
theorem readReg_exact {r : Reg} (hr : s.regValueBusy s.unspecifiedWord r = none) : readReg r s = (s.regValue r, s) := by
  unfold readReg
  rw [hr]
  split <;> rfl

/-! ### Configuration registers (10_state.md R27) -/

section
variable {legal : Bool} {store : State → State}

theorem writeConfig_busy (hb : s.busy = true) : s.writeConfig legal store = s.raise .bsy := by
  simp [State.writeConfig, hb]

theorem writeConfig_illegal (hb : s.busy = false) (hl : legal = false) : s.writeConfig legal store = s.raise .cfg := by
  simp [State.writeConfig, hb, hl]

theorem writeConfig_legal (hb : s.busy = false) (hl : legal = true) : s.writeConfig legal store = store s := by
  simp [State.writeConfig, hb, hl]

/-- The three verdicts on a configuration write, for a register that is written by `writeConfig`. -/
theorem configRule {r : Reg} {v : Word} (hr : ¬(r = .attempts ∨ r = .trigLevel ∨ r = .maxcyc))
    (hw : writeReg r v s = .next (s.writeConfig legal store)) {legalValue : Prop} (hv : legal = true ↔ legalValue) :
    (s.busy = true → performAccess (.write r.offset .four v) s = .next { s with err := s.err ||| 0b01000#5 }) ∧
    (s.busy = false → ¬legalValue →
      performAccess (.write r.offset .four v) s = .next { s with err := s.err ||| 0b00100#5 }) ∧
    (s.busy = false → legalValue → performAccess (.write r.offset .four v) s = .next (store s)) := by
  rw [performAccess_write hr, hw]
  refine ⟨fun hb => ?_, fun hb hn => ?_, fun hb hy => ?_⟩
  · rw [writeConfig_busy hb]; rfl
  · rw [writeConfig_illegal hb (eq_false_of_ne_true fun h => hn (hv.1 h))]; rfl
  · rw [writeConfig_legal hb (hv.2 hy)]

end

theorem configRead {r : Reg} (hr : r ≠ .cmd) (hu : s.regValueBusy s.unspecifiedWord r = none) :
    performAccess (.read r.offset .four) s =
      .next { s with reads := ⟨r.offset, .four, s.regValue r⟩ :: s.reads } := by
  rw [performAccess_read hr, readReg_exact hu]; rfl

/-- Settles O38: the three verdicts on a configuration write, and reads that have no UNSPECIFIED bits. -/
theorem configurationWriteRule : Obligations.ConfigurationWriteRule := fun v s =>
  ⟨configRule (r := .scaleMv) (by decide) rfl scaleLegal_iff,
    configRule (r := .atten) (by decide) rfl decide_eq_true_iff,
    configRule (r := .intervalUs) (by decide) rfl (by simp),
    configRule (r := .trigUv) (by decide) rfl (by simp),
    configRule (r := .probeW) (by decide) rfl probeLegal_iff,
    configRead (r := .scaleMv) (by decide) rfl, configRead (r := .atten) (by decide) rfl,
    configRead (r := .intervalUs) (by decide) rfl, configRead (r := .trigUv) (by decide) rfl,
    configRead (r := .probeW) (by decide) rfl⟩

/-- Settles O39: each write goes to its register's own rule, none of which asks for `BUSY`. -/
theorem controlRegisterWrites : Obligations.ControlRegisterWrites := fun v s => by
  have hctrl : performAccess (.write 0x08#8 .four v) s = .next (writeCtrl v s) :=
    performAccess_write (r := .ctrl) (by decide) v s
  have hstatus : performAccess (.write 0x04#8 .four v) s = .next (writeStatus v s) :=
    performAccess_write (r := .status) (by decide) v s
  have herr : performAccess (.write 0x0C#8 .four v) s = .next (s.clearErr (v.extractLsb' 0 5)) :=
    performAccess_write (r := .err) (by decide) v s
  rw [hctrl, hstatus, herr]
  refine ⟨fun hv => ?_, fun hv => ?_, fun hv => ?_, fun hv => ?_, s.err &&& ~~~v.extractLsb' 0 5, fun b hb => ?_, rfl⟩
  · rw [writeCtrl, if_neg (by simp [ctrlLegal]; omega)]; rfl
  · rw [writeCtrl, if_pos (by simp [ctrlLegal]; omega)]
  · rw [writeStatus, hv]; rfl
  · rw [writeStatus, hv]; rfl
  · simp [hb]

/-! ### The command register (10_state.md R45) -/

/-- All that a write of `CMD` can do: a refusal, or the acceptance of a command by an idle block. -/
theorem writeCmd_cases (w : Word) (s : State) :
    (∃ e, writeCmd w s = .next (s.raise e)) ∨
    (s.busy = false ∧ ∃ i, writeCmd w s = .next (acceptOf i s)) := by
  unfold writeCmd
  cases hb : s.busy with
  | true => exact .inl ⟨_, rfl⟩
  | false =>
    cases decode w with
    | error _ => exact .inl ⟨_, rfl⟩
    | ok i =>
      obtain ⟨e, he⟩ | ⟨-, -, -, he⟩ := exec_cases (i := i) (s := s) rfl
      · exact .inl ⟨e, he⟩
      · exact .inr ⟨rfl, i, he⟩

theorem acceptOf_busy (i : Instr) (s : State) : (acceptOf i s).busy = true := by cases i <;> rfl

theorem acceptOf_err (i : Instr) (s : State) : (acceptOf i s).err = s.err := by cases i <;> rfl

/-- Settles O7: a command that passes the checks is accepted, and a `CMD` write is a refusal or an acceptance. -/
theorem acceptanceWritesExactly : Obligations.AcceptanceWritesExactly := by
  refine ⟨fun s hb hm => ⟨fun n hn => ?_, fun k hk => ?_, ?_, ?_, fun n hn => ?_⟩, fun s hb => ?_, fun w s => ?_⟩
  · exact exec_accepted hb (decide_eq_true hn) fun _ => hm
  · exact exec_accepted hb (decide_eq_true hk) fun _ => hm
  · exact exec_accepted hb rfl fun _ => hm
  · exact exec_accepted hb rfl fun _ => hm
  · exact exec_accepted hb (decide_eq_true hn) fun _ => hm
  · exact exec_accepted hb rfl fun hs => by cases hs
  · have hw : performAccess (.write 0x00#8 .four w) s = writeCmd w s := performAccess_write (r := .cmd) (by decide) w s
    rw [hw]
    obtain ⟨e, he⟩ | ⟨hb, i, he⟩ := writeCmd_cases w s
    · exact ⟨_, he, .inr rfl, fun _ => rfl⟩
    · exact ⟨_, he, .inl ⟨hb, acceptOf_busy i s, acceptOf_err i s⟩, fun hb' => by rw [hb] at hb'; cases hb'⟩

/-! ### What a step leaves alone -/

/-- An engine step that ends with an idle engine is `finish`, which sets `DONE` (10_state.md R44). -/
theorem engineStep_done (hp : s.ph ≠ .idle) (hst : engineStep s = .next t) (ht : t.ph = .idle) : t.done = true := by
  have hafter (u : State) (hu : u.afterSearch.ph = .idle) : u.afterSearch.done = true := by
    unfold State.afterSearch at hu ⊢
    split
    · next ha => rw [if_pos ha] at hu; cases hu
    · rfl
  have hpaced (u : State) : (pacedSample u).2.ph = u.ph := by
    obtain ⟨_, _, _, e⟩ := pacedSample_frame (s := u)
    rw [e]
  cases engineStep_effect hst with
  | idle => exact absurd ht hp
  | startProbe | evaluatedBelow | evaluatedAbove => cases ht
  | gaveUp | fired => exact hafter _ ht
  | probeSample | captured => exact absurd ((hpaced s).symm.trans ht) hp
  | captureOver | put | rolled | cleared => rfl

/-- Settles O26: the invariant of the next state, and `finish` where it is idle. -/
theorem engineStaysBusyOrFinishes : Obligations.EngineStaysBusyOrFinishes := fun s t h hp hst => by
  have ht := h.engineStep hst
  by_cases hi : t.ph = .idle
  · have hd := engineStep_done hp hst hi
    exact .inr ⟨hi, ht.doneIdle hd, hd⟩
  · have hb := ht.busyIff.2 hi
    exact .inl ⟨hi, hb, eq_false_of_ne_true fun hd => by rw [ht.doneIdle hd] at hb; cases hb⟩

/-- Settles O27: the frame of an engine step. -/
theorem engineLeavesHostSideAlone : Obligations.EngineLeavesHostSideAlone := fun s t hst => by
  obtain ⟨_, _, _, _, _, _, _, _, _, _, _, _, _, _, rfl⟩ := engineStep_frame hst
  exact ⟨rfl, rfl, rfl, rfl, rfl, rfl, rfl, rfl, rfl, rfl, rfl, rfl, rfl⟩

theorem AccessEffect.buf (h : AccessEffect s t) : t.buf = s.buf := by
  cases h with
  | accepted i => cases i <;> rfl
  | _ => rfl

theorem waitStep_buf (s : State) : (waitStep s).buf = s.buf := by
  obtain ⟨u, r, e | e⟩ := waitStep_frame (s := s)
  · rw [e]
  · rw [e]; rfl

/-- The outside world leaves the cells alone or, by the reset input, clears them. -/
theorem hostStep_buf (hst : hostStep s = .next t) : t.buf = s.buf ∨ t.buf = [] := by
  have hhold (v : State) : v.holdReset.buf = v.buf ∨ v.holdReset.buf = [] := by
    unfold State.holdReset; split
    exacts [.inr rfl, .inl rfl]
  obtain ⟨-, rfl⟩ | ⟨a, rest, v, -, -, hv, rfl⟩ | ⟨rest, -, rfl⟩ | ⟨level, rest, -, rfl⟩ := hostStep_cases hst
  · exact .inl rfl
  · rw [← show v.buf = s.buf from hv.buf]; exact hhold v
  · rw [← waitStep_buf s]; exact hhold _
  · unfold State.driveReset; split
    exacts [.inr rfl, .inl rfl]

/-- The same but for the step that asserts the reset input: no cell changes (10_state.md R37 (c)). -/
theorem hostStep_buf_of_held (hr : s.ResetHeld) (hn : s.script.head? ≠ some (.resetInput true))
    (hst : hostStep s = .next t) : t.buf = s.buf := by
  obtain ⟨-, rfl⟩ | ⟨a, rest, -, -, he⟩ | ⟨a, rest, u, r, -, -, rfl⟩ | ⟨rest, u, r, -, rfl | rfl⟩ |
    ⟨level, rest, hs, rfl⟩ := hostStep_cases_held hr hst
  · rfl
  · exact he.buf
  · rfl
  · rfl
  · rfl
  · have hl : level = false := eq_false_of_ne_true fun e => hn (by rw [hs, e]; rfl)
    have hr' : s.popStmt.ResetHeld := fun ha => congrArg State.popStmt (hr ha)
    rw [driveReset_held hr' (.inl hl)]; rfl

/-- Settles O42: the host's step keeps the cells, so the step was the engine's. -/
theorem bufferChangesOnlyWhileBusy : Obligations.BufferChangesOnlyWhileBusy := fun s t h hn hst hc => by
  obtain ⟨d, ⟨hm, hh⟩ | ⟨-, hp, he⟩⟩ := step_cases hst
  · have hd := h.hostSide d s.unspecDraws s.reads s.script
    exact absurd (hostStep_buf_of_held hd.resetHeld (fun e => hn ⟨hm, e⟩) hh) hc
  · exact ⟨h.busyIff.2 hp, d, he⟩

/-- The engine stores in cells that exist only, so that the form stays canonical (10_state.md R37). -/
theorem engineStep_wf (hw : Memory.wf s.buf = true) (hst : engineStep s = .next t) : Memory.wf t.buf = true := by
  have hafter (u : State) : u.afterSearch.buf = u.buf := by
    obtain ⟨_, _, _, _, e⟩ := afterSearch_frame (s := u)
    rw [e]
  have hpaced : (pacedSample s).2.buf = s.buf ∧ (pacedSample s).2.i = s.i := by
    obtain ⟨_, _, _, e⟩ := pacedSample_frame (s := s)
    rw [e]; exact ⟨rfl, rfl⟩
  cases engineStep_effect hst with
  | idle | startProbe | evaluatedBelow | evaluatedAbove | captureOver => exact hw
  | gaveUp | fired => rw [hafter]; exact hw
  | probeSample => rw [State.foldProbe_buf, hpaced.1]; exact hw
  | captured _ _ hi =>
    show Memory.wf (Memory.write (pacedSample s).2.buf (cellOffset (pacedSample s).2.i.toNat) _) = true
    rw [hpaced.1, hpaced.2]
    exact Memory.wf_write_cell hw hi
  | put => exact Memory.wf_write_cell hw s.idx.isLt
  | rolled => exact Memory.wf_shiftAppend hw
  | cleared => exact Memory.wf_nil

/-- Settles O53: the outside world keeps or clears the cells, and the engine stores where there is one. -/
theorem stepKeepsBufferCanonical : Obligations.StepKeepsBufferCanonical := fun s t hw hst => by
  obtain ⟨d, ⟨-, hh⟩ | ⟨-, -, he⟩⟩ := step_cases hst
  · obtain hb | hb := hostStep_buf hh
    · rw [hb]; exact hw
    · rw [hb]; rfl
  · exact engineStep_wf (s := { s with turns := d }) hw he

theorem waitStep_maxcyc (s : State) : (waitStep s).maxcyc = s.maxcyc := by
  obtain ⟨u, r, e | e⟩ := waitStep_frame (s := s)
  · rw [e]
  · rw [e]; rfl

theorem hostStep_maxcyc (hst : hostStep s = .next t) : t.maxcyc = s.maxcyc := by
  obtain ⟨-, rfl⟩ | ⟨a, rest, v, -, -, hv, rfl⟩ | ⟨rest, -, rfl⟩ | ⟨level, rest, -, rfl⟩ := hostStep_cases hst
  · rfl
  · rw [State.holdReset_maxcyc]; exact hv.environment.1
  · rw [State.holdReset_maxcyc, waitStep_maxcyc]
  · rw [State.driveReset_maxcyc]; rfl

/-- Settles O54: no access, no event of the reset input and no engine step writes `MAXCYC`. -/
theorem maxcycNeverChanges : Obligations.MaxcycNeverChanges := fun s t hst => by
  obtain ⟨d, ⟨-, hh⟩ | ⟨-, -, he⟩⟩ := step_cases hst
  · exact hostStep_maxcyc (s := { s with turns := d }) hh
  · obtain ⟨_, _, _, _, _, _, _, _, _, _, _, _, _, _, rfl⟩ := engineStep_frame he
    rfl

/-- Settles O46: the three verdicts of `nextMover`. -/
theorem engineMovesOnItsTurn : Obligations.EngineMovesOnItsTurn := fun s => by
  refine ⟨fun hp hs => ?_, fun hp hs ht => ?_, fun hp hs => ?_⟩
  · have hm : nextMover s = (.engine, s) := by rw [nextMover, if_neg hp, if_pos hs]
    rw [step, hm]
  · have hm : nextMover s = (.engine, s.afterTurn) := by rw [nextMover, if_neg hp, if_neg hs, ht]
    rw [step, hm]; rfl
  · have hm : nextMover s = (.host, s) := by rw [nextMover, if_pos hp]
    have hh : hostStep s = .next s := by rw [hostStep, hs]
    rw [step, hm]; exact hh

/-- Settles O48: the reset state's fields as they are written down, and an empty list of cells. -/
theorem resetValues : Obligations.ResetValues :=
  ⟨rfl, rfl, rfl, rfl, rfl, rfl, rfl, rfl, rfl, rfl, rfl, rfl, rfl, fun _ _ => rfl, rfl, rfl, rfl⟩

end Sys2Proof.Machine
end

section
/-! SUPPORT. The access check, in numbers, and what each register and cell answers to a read. -/

namespace Sys2Proof.Machine

variable {s t : State} {o : Byte} {w : Width} {v : Word}

/-! ### The access check (20_memory.md R68) -/

theorem performAccess_read_error (h : (Access.read o w).isError = true) :
    performAccess (.read o w) s = .next { s with err := s.err ||| 0b10000#5, reads := ⟨o, w, 0⟩ :: s.reads } := by
  rw [performAccess, if_pos h]; rfl

theorem performAccess_write_error (h : (Access.write o w v).isError = true) :
    performAccess (.write o w v) s = .next { s with err := s.err ||| 0b10000#5 } := by
  rw [performAccess, if_pos h]; rfl

theorem isError_read_iff : (Access.read o w).isError = true ↔
    (w.bytes = 2 ∨ (0x30 ≤ o.toNat ∧ o.toNat ≤ 0x7F) ∨ (o.toNat ≤ 0x2F ∧ (w.bytes ≠ 4 ∨ o.toNat % 4 ≠ 0)) ∨
      0x100 < o.toNat + w.bytes) ∨
    (o.toNat = 0x00 ∨ (0x80 ≤ o.toNat ∧ w.bytes = 4 ∧ o.toNat % 4 ≠ 0)) := by
  simp only [Access.isError, Bool.or_eq_true, Bool.and_eq_true, decide_eq_true_iff]
  simp only [Access.offset, Access.width, Access.isWrite, Bool.not_false, Bool.false_eq_true, true_and, false_and]
  tauto

theorem isError_write_iff : (Access.write o w v).isError = true ↔
    (w.bytes = 2 ∨ (0x30 ≤ o.toNat ∧ o.toNat ≤ 0x7F) ∨ (o.toNat ≤ 0x2F ∧ (w.bytes ≠ 4 ∨ o.toNat % 4 ≠ 0)) ∨
      0x100 < o.toNat + w.bytes) ∨
    (o.toNat = 0x24 ∨ o.toNat = 0x28 ∨ o.toNat = 0x2C ∨ 0x80 ≤ o.toNat) := by
  simp only [Access.isError, Bool.or_eq_true, Bool.and_eq_true, decide_eq_true_iff]
  simp only [Access.offset, Access.width, Access.isWrite, Bool.not_true, Bool.false_eq_true, true_and, false_and]
  tauto

/-- Settles O33: each kind is a clause of the check, and the check decides the access. -/
theorem accessErrorsOnlySetAddr : Obligations.AccessErrorsOnlySetAddr := fun _ _ _ _ =>
  ⟨fun h => ⟨performAccess_read_error (isError_read_iff.2 (.inl h)),
      performAccess_write_error (isError_write_iff.2 (.inl h))⟩,
    fun h => performAccess_read_error (isError_read_iff.2 (.inr h)),
    fun h => performAccess_write_error (isError_write_iff.2 (.inr h))⟩

theorem legalRead_iff : (Access.read o w).isError = false ↔
    (w = .four ∧ o.toNat % 4 = 0 ∧ 0x04 ≤ o.toNat ∧ o.toNat ≤ 0x2C) ∨
    (w = .one ∧ 0x80 ≤ o.toNat) ∨ (w = .four ∧ o.toNat % 4 = 0 ∧ 0x80 ≤ o.toNat) := by
  have ho := o.isLt
  rw [← Bool.not_eq_true, isError_read_iff]
  cases w <;> simp [Width.bytes] <;> omega

theorem legalWrite_iff : (Access.write o w v).isError = false ↔ w = .four ∧ o.toNat % 4 = 0 ∧ o.toNat ≤ 0x20 := by
  have ho := o.isLt
  rw [← Bool.not_eq_true, isError_write_iff]
  cases w <;> simp [Width.bytes] <;> omega

/-- Settles O34: the clauses of the check, negated, for each width. -/
theorem legalAccessesAreExactly : Obligations.LegalAccessesAreExactly :=
  ⟨fun _ _ => legalRead_iff, fun _ _ _ => legalWrite_iff⟩

/-! ### Register reads (20_memory.md R63, R74) -/

section
variable {r : Reg}

theorem readReg_idle (hb : s.busy = false) : readReg r s = (s.regValue r, s) := by
  simp [readReg, hb]

theorem readReg_unspecified (hb : s.busy = true) (hv : s.regValueBusy s.unspecifiedWord r = some v) :
    readReg r s = (v, s.afterUnspecified) := by
  simp [readReg, hb, hv]

/-- A word read that is exact: no effect but the record of the read. -/
theorem wordRead_exact (hr : r ≠ .cmd) (he : readReg r s = (s.regValue r, s)) (hv : s.regValue r = v) :
    performAccess (.read r.offset .four) s = .next { s with reads := ⟨r.offset, .four, v⟩ :: s.reads } := by
  rw [performAccess_read hr, he, hv]; rfl

/-- A word read that draws an UNSPECIFIED value (00_scope.md R12). -/
theorem wordRead_unspecified (hr : r ≠ .cmd) (hb : s.busy = true)
    (hv : s.regValueBusy s.unspecifiedWord r = some v) :
    performAccess (.read r.offset .four) s =
      .next { s with reads := ⟨r.offset, .four, v⟩ :: s.reads, unspecDraws := s.unspecDraws + 1 } := by
  rw [performAccess_read hr, readReg_unspecified hb hv]; rfl

end

theorem statusWord_toNat (c : BitVec 2) (d b : Bool) :
    (statusWord c d b).toNat = b.toNat + 2 * d.toNat + 4 * c.toNat := by
  revert c d b; decide

theorem regValue_status_idle (hb : s.busy = false) :
    s.regValue .status = BitVec.ofNat 32 ((if s.done then 2 else 0) + 4 * s.tstate.code.toNat) := by
  rw [State.regValue, hb, (BitVec.toNat_eq_nat.1 (statusWord_toNat ..)).2]
  cases s.done <;> simp

theorem regValue_ctrl : s.regValue .ctrl = if s.ie then 1 else 0 := by
  rw [State.regValue]
  cases s.ie <;> rfl

/-- Settles O35: every register of an idle block reads as it stands. -/
theorem idleRegisterReads : Obligations.IdleRegisterReads := fun s hb => by
  have hexact {r : Reg} {v : Word} (hr : r ≠ .cmd) (hv : s.regValue r = v) := wordRead_exact hr (readReg_idle hb) hv
  exact ⟨hexact (r := .status) (by decide) (regValue_status_idle hb),
    hexact (r := .ctrl) (by decide) regValue_ctrl,
    hexact (r := .err) (by decide) (BitVec.ofNat_toNat ..).symm,
    hexact (r := .scaleMv) (by decide) (BitVec.ofNat_toNat ..).symm,
    hexact (r := .atten) (by decide) (BitVec.ofNat_toNat ..).symm,
    hexact (r := .intervalUs) (by decide) rfl,
    hexact (r := .trigUv) (by decide) rfl,
    hexact (r := .probeW) (by decide) (BitVec.ofNat_toNat ..).symm,
    hexact (r := .attempts) (by decide) (BitVec.ofNat_toNat ..).symm,
    hexact (r := .trigLevel) (by decide) rfl,
    hexact (r := .maxcyc) (by decide) rfl⟩

/-- `STATUS` is exact in `BUSY` and `DONE`, whatever stands in `TSTATE`'s place (10_state.md R29). -/
theorem statusWord_bits (c : BitVec 2) (d b : Bool) :
    (statusWord c d b).getLsbD 0 = b ∧ (statusWord c d b).getLsbD 1 = d ∧ (statusWord c d b).toNat < 16 := by
  revert c d b; decide

/-- Settles O36: exact where a register has no UNSPECIFIED bits, and else bounded by the field they stand in. -/
theorem busyRegisterReads : Obligations.BusyRegisterReads := fun s hb => by
  have hexact {r : Reg} {v : Word} (hr : r ≠ .cmd) (hu : s.regValueBusy s.unspecifiedWord r = none)
    (hv : s.regValue r = v) := wordRead_exact hr (readReg_exact hu) hv
  have hsome {r : Reg} {v : Word} (hr : r ≠ .cmd) (hv : s.regValueBusy s.unspecifiedWord r = some v) :=
    wordRead_unspecified hr hb hv
  refine ⟨⟨_, ?_, hsome (r := .status) (by decide) rfl⟩,
    hexact (r := .ctrl) (by decide) rfl regValue_ctrl,
    hexact (r := .err) (by decide) rfl (BitVec.ofNat_toNat ..).symm,
    hexact (r := .scaleMv) (by decide) rfl (BitVec.ofNat_toNat ..).symm,
    hexact (r := .atten) (by decide) rfl (BitVec.ofNat_toNat ..).symm,
    hexact (r := .intervalUs) (by decide) rfl rfl,
    hexact (r := .trigUv) (by decide) rfl rfl,
    hexact (r := .probeW) (by decide) rfl (BitVec.ofNat_toNat ..).symm,
    ⟨_, ?_, hsome (r := .attempts) (by decide) rfl⟩,
    ⟨_, rfl, hsome (r := .trigLevel) (by decide) rfl⟩,
    hexact (r := .maxcyc) (by decide) rfl rfl⟩
  · rw [hb]; exact statusWord_bits _ s.done true
  · exact (BitVec.toNat_setWidth ..).trans_lt ((Nat.mod_le _ _).trans_lt (s.unspecifiedWord.extractLsb' 0 9).isLt)

/-! ### Buffer reads (20_memory.md R66, R67) -/

/-- No register lies in the buffer window (20_memory.md R61). -/
theorem regAt_window (h : bufBase ≤ o.toNat) : regAt o = none := by
  have hne (r : Byte) (hr : r.toNat < bufBase) : o ≠ r := fun e => by rw [e] at h; omega
  simp (disch := decide) only [regAt, if_neg, hne]

/-- A legal read in the window reads the buffer. -/
theorem bufferRead {k : Nat} (hk : k ≤ 127) (hw : w = .one ∨ w = .four ∧ k % 4 = 0) (hv : readBuf k w s = (v, t)) :
    performAccess (.read (BitVec.ofNat 8 (0x80 + k)) w) s =
      .next { t with reads := ⟨BitVec.ofNat 8 (0x80 + k), w, v⟩ :: t.reads } := by
  have ho : (BitVec.ofNat 8 (0x80 + k)).toNat = 0x80 + k := Nat.mod_eq_of_lt (by omega)
  generalize BitVec.ofNat 8 (0x80 + k) = o at ho ⊢
  have hlegal : (Access.read o w).isError = false :=
    legalRead_iff.2 (.inr (hw.imp (fun h => ⟨h, by omega⟩) fun ⟨h, h4⟩ => ⟨h, by omega, by omega⟩))
  have hreg : regAt o = none := regAt_window (ho ▸ Nat.le_add_right 0x80 k)
  have hcell : o.toNat - bufBase = k := ho ▸ Nat.add_sub_cancel_left ..
  rw [performAccess, hlegal, readValue, hreg, hcell, hv]
  rfl

/-- A byte appended below (20_memory.md R67). -/
theorem append_byte_toNat {n : Nat} (x : BitVec n) (b : Byte) : (x ++ b).toNat = x.toNat * 256 + b.toNat := by
  rw [BitVec.toNat_append, ← Nat.shiftLeft_add_eq_or_of_lt b.isLt, Nat.shiftLeft_eq]

/-- Four cells as one number, the lowest index lowest (20_memory.md R67). -/
theorem cellWord_eq (s : State) (k : Nat) :
    s.cellWord k = BitVec.ofNat 32 ((s.cell k).toNat + 256 * (s.cell (k + 1)).toNat
      + 65536 * (s.cell (k + 2)).toNat + 16777216 * (s.cell (k + 3)).toNat) := by
  refine (BitVec.toNat_eq_nat.1 ?_).2
  simp only [State.cellWord, append_byte_toNat]
  omega

theorem readBuf_one_idle (k : Nat) (hb : s.busy = false) :
    readBuf k .one s = (BitVec.ofNat 32 (s.cell k).toNat, s) := by
  simp [readBuf, hb]

theorem readBuf_four_idle (k : Nat) (hb : s.busy = false) : readBuf k .four s = (s.cellWord k, s) := by
  simp [readBuf, hb]

theorem readBuf_one_busy (k : Nat) (hb : s.busy = true) :
    readBuf k .one s = (BitVec.ofNat 32 (s.unspecifiedWord.toNat % 256), s.afterUnspecified) := by
  have hlow : (s.unspecifiedWord.extractLsb' 0 8).toNat = s.unspecifiedWord.toNat % 256 := BitVec.extractLsb'_toNat ..
  rw [← hlow, BitVec.ofNat_toNat]
  simp [readBuf, hb]

theorem readBuf_four_busy (k : Nat) (hb : s.busy = true) :
    readBuf k .four s = (s.unspecifiedWord, s.afterUnspecified) := by
  simp [readBuf, hb]

/-- Settles O37: the read is one of the buffer, which answers by the width and `BUSY`. -/
theorem bufferReadsLittleEndian : Obligations.BufferReadsLittleEndian := fun k s hk =>
  ⟨fun hb => ⟨bufferRead hk (.inl rfl) (readBuf_one_idle k hb),
      fun h4 => bufferRead hk (.inr ⟨rfl, h4⟩) (cellWord_eq s k ▸ readBuf_four_idle k hb)⟩,
    fun hb => ⟨bufferRead hk (.inl rfl) (readBuf_one_busy k hb),
      fun h4 => bufferRead hk (.inr ⟨rfl, h4⟩) (readBuf_four_busy k hb)⟩⟩

end Sys2Proof.Machine
end

section
/-! SUPPORT. What one step can change while the block is busy and while it is idle, and the step of a delivered command. -/

namespace Sys2Proof.Machine

variable {s t : State}

/-! ### The host's step, but for the assertion of the reset input -/

/-- From a state held to reset, a step of the outside world that does not assert the reset input is a bus access, or
changes only the model's record of the host and the level of the input. -/
theorem hostStep_cases_noReset (hr : s.ResetHeld) (hn : s.script.head? ≠ some (.resetInput true))
    (hst : hostStep s = .next t) :
    AccessEffect s.popStmt t ∨
      ∃ u r l b, t = { s with unspecDraws := u, reads := r, script := l, resetAsserted := b } := by
  obtain ⟨-, rfl⟩ | ⟨a, rest, -, -, he⟩ | ⟨a, rest, u, r, -, -, rfl⟩ | ⟨rest, u, r, -, rfl | rfl⟩ |
    ⟨level, rest, hs, rfl⟩ := hostStep_cases_held hr hst
  · exact .inr ⟨_, _, _, _, rfl⟩
  · exact .inl he
  · exact .inr ⟨_, _, _, _, rfl⟩
  · exact .inr ⟨_, _, _, _, rfl⟩
  · exact .inr ⟨_, _, _, _, rfl⟩
  · have hl : level = false := eq_false_of_ne_true fun e => hn (by rw [hs, e]; rfl)
    have hr' : s.popStmt.ResetHeld := fun ha => congrArg State.popStmt (hr ha)
    exact .inr ⟨_, _, _, _, driveReset_held hr' (.inl hl)⟩

/-- No access to a busy block stores in a configuration register (10_state.md R27). -/
theorem AccessEffect.configuration (he : AccessEffect s t) (hb : s.busy = true) :
    t.scaleMv = s.scaleMv ∧ t.atten = s.atten ∧ t.intervalUs = s.intervalUs ∧ t.trigUv = s.trigUv ∧
      t.probeW = s.probeW := by
  have hidle {p : Prop} (h : s.busy = false) : p := by rw [hb] at h; cases h
  cases he with
  | accepted _ h | scale _ h | attenuation _ h | interval _ h | trigger _ h | probe _ h => exact hidle h
  | read | refusedWrite | refusedRead | ack | cleared | control | nothing => exact ⟨rfl, rfl, rfl, rfl, rfl⟩

/-- Settles O41: neither an access to a busy block nor the engine stores in a configuration register. -/
theorem configurationConstantWhileBusy : Obligations.ConfigurationConstantWhileBusy := fun s t hr hb hn hst => by
  obtain ⟨d, ⟨hm, hh⟩ | ⟨-, -, he⟩⟩ := step_cases hst
  · have hr' : State.ResetHeld { s with turns := d } := fun ha =>
      congrArg (fun v : State => { v with turns := d }) (hr ha)
    obtain he | ⟨u, r, l, b, rfl⟩ := hostStep_cases_noReset hr' (fun e => hn ⟨hm, e⟩) hh
    · exact he.configuration hb
    · exact ⟨rfl, rfl, rfl, rfl, rfl⟩
  · obtain ⟨_, _, _, _, _, _, _, _, _, _, _, _, _, _, rfl⟩ := engineStep_frame he
    exact ⟨rfl, rfl, rfl, rfl, rfl⟩

/-- An access that starts no command leaves the results (20_memory.md R72). -/
theorem AccessEffect.results (he : AccessEffect s t) (hb : t.busy = false) :
    t.buf = s.buf ∧ t.tstate = s.tstate ∧ t.attempts = s.attempts ∧ t.trigLevel = s.trigLevel := by
  cases he with
  | accepted i => rw [acceptOf_busy] at hb; cases hb
  | _ => exact ⟨rfl, rfl, rfl, rfl⟩

/-- Settles O43: an idle engine has no step, and the host's step is no acceptance. -/
theorem idleResultsStayUntilNextCommand : Obligations.IdleResultsStayUntilNextCommand := fun s t h hb hn hst ht => by
  obtain ⟨d, ⟨hm, hh⟩ | ⟨-, hp, -⟩⟩ := step_cases hst
  · have hd := h.hostSide d s.unspecDraws s.reads s.script
    obtain he | ⟨u, r, l, b, rfl⟩ := hostStep_cases_noReset hd.resetHeld (fun e => hn ⟨hm, e⟩) hh
    · exact he.results ht
    · exact ⟨rfl, rfl, rfl, rfl⟩
  · exact absurd (h.idle_of_not_busy hb) hp

/-! ### The delivered command (20_memory.md R75) -/

theorem step_host (hm : nextMover s = (.host, t)) : step s = hostStep t := by
  rw [step, hm]

theorem nextMover_idle (hp : s.ph = .idle) : nextMover s = (.host, s) := by
  rw [nextMover, if_pos hp]

theorem nextMover_hostTurn (hp : s.ph ≠ .idle) (hs : s.script ≠ []) (ht : s.turn = .host) :
    nextMover s = (.host, s.afterTurn) := by
  rw [nextMover, if_neg hp, if_neg hs, ht]

/-- A `CMD` write of a command's word is the command, busy or not: a busy block refuses both (30_encoding.md R93). -/
theorem writeCmd_of_decode {w : Word} {i : Instr} (hw : decode w = .ok i) (s : State) : writeCmd w s = exec i s := by
  unfold writeCmd
  split
  · next hb => rw [exec_busy hb]
  · rw [hw]

/-- No command touches the reset input. -/
theorem exec_resetAsserted {i : Instr} (he : exec i s = .next t) : t.resetAsserted = s.resetAsserted := by
  obtain ⟨e, h⟩ | ⟨-, -, -, h⟩ := exec_cases he <;> cases h
  · rfl
  · cases i <;> rfl

theorem exec_holdReset_released {i : Instr} (hr : s.resetAsserted = false) :
    mapNext State.holdReset (exec i s) = exec i s := by
  have he := exec_eq i s
  rw [he, mapNext, State.holdReset_released _ ((exec_resetAsserted he).trans hr)]

theorem exec_holdReset_asserted {i : Instr} (hr : s.resetAsserted = true) :
    mapNext State.holdReset (exec i s) = mapNext State.resetBlock (exec i s) := by
  have he := exec_eq i s
  rw [he, mapNext, mapNext, State.holdReset_asserted _ ((exec_resetAsserted he).trans hr)]

/-- The outside world's step where the next statement is the write of a command's word. -/
theorem hostStep_command {w : Word} {i : Instr} {rest : List HostStmt} (hw : decode w = .ok i)
    (hs : s.script = .access (.write 0x00#8 .four w) :: rest) :
    hostStep s = mapNext State.holdReset (exec i { s with script := rest }) := by
  have hacc (u : State) : performAccess (.write 0x00#8 .four w) u = exec i u :=
    (performAccess_write (r := .cmd) (by decide) w u).trans (writeCmd_of_decode hw u)
  have hpop : s.popStmt = { s with script := rest } := by rw [State.popStmt, hs]; rfl
  rw [hostStep, hs, ← hpop, ← hacc]

/-- An idle block performs the command written next, the reset input released. -/
theorem step_command_idle {w : Word} {i : Instr} {rest : List HostStmt} (hw : decode w = .ok i)
    (hs : s.script = .access (.write 0x00#8 .four w) :: rest) (hp : s.ph = .idle) (hr : s.resetAsserted = false) :
    step s = exec i { s with script := rest } := by
  rw [step_host (nextMover_idle hp), hostStep_command hw hs]
  exact exec_holdReset_released (s := { s with script := rest }) hr

/-- A busy block performs it on the host's turn, which is used up. -/
theorem step_command_hostTurn {w : Word} {i : Instr} {rest : List HostStmt} (hw : decode w = .ok i)
    (hs : s.script = .access (.write 0x00#8 .four w) :: rest) (hp : s.ph ≠ .idle) (ht : s.turn = .host)
    (hr : s.resetAsserted = false) : step s = exec i { s with script := rest, turns := s.turns.skip 1 } := by
  have hne : s.script ≠ [] := by rw [hs]; exact List.cons_ne_nil _ _
  rw [step_host (nextMover_hostTurn hp hne ht), hostStep_command (s := s.afterTurn) hw hs]
  exact exec_holdReset_released (s := { s with script := rest, turns := s.turns.skip 1 }) hr

theorem decode_of_decodeTableWord {nbits w : Nat} {i : Instr} (h : decodeTableWord nbits w = some i) :
    decode (BitVec.ofNat 32 (w % 2 ^ nbits)) = .ok i := by
  unfold decodeTableWord at h
  cases hd : decode (BitVec.ofNat 32 (w % 2 ^ nbits)) with
  | ok j => rw [hd] at h; cases h; rfl
  | error e => rw [hd] at h; cases h

/-- Settles O45: the host moves, its `CMD` write is the command, and the outcome is held where reset is asserted. -/
theorem stepRunsDeliveredCommand : Obligations.StepRunsDeliveredCommand := by
  refine ⟨fun s w i rest hw hs => ⟨step_command_idle hw hs, step_command_hostTurn hw hs, fun hp hr => ?_⟩,
    fun s nbits w i h => ⟨fun hp => ?_, fun hp => ?_⟩⟩
  · rw [step_host (nextMover_idle hp), hostStep_command hw hs]
    exact exec_holdReset_asserted (s := { s with script := rest }) hr
  · rw [State.withFetchWord, State.deliver, if_pos hp]
    exact step_command_idle (decode_of_decodeTableWord h) rfl hp rfl
  · rw [State.withFetchWord, State.deliver, if_neg hp]
    exact step_command_hostTurn (decode_of_decodeTableWord h) rfl hp rfl rfl

end Sys2Proof.Machine
end

section
/-! SUPPORT. The decoder and the encoder as inverses, by the three fields of a word, and the list of the legal words. -/

namespace Sys2Proof

variable {w : Word} {i : Instr}

/-! ### A word is its three fields (30_encoding.md R90) -/

theorem word_eq_iff_fields {v : Word} :
    v = w ↔ zeroField v = zeroField w ∧ opcField v = opcField w ∧ argField v = argField w := by
  refine ⟨fun h => h ▸ ⟨rfl, rfl, rfl⟩, fun ⟨hz, ho, ha⟩ => BitVec.eq_of_getLsbD_eq fun k hk => ?_⟩
  obtain h | h | h : k < 8 ∨ (8 ≤ k ∧ k < 16) ∨ 16 ≤ k := by omega
  · simpa [opcField, h] using congrArg (·.getLsbD k) ho
  · simpa [argField, Nat.add_sub_cancel' h.1, show k - 8 < 8 by omega] using congrArg (·.getLsbD (k - 8)) ha
  · simpa [zeroField, Nat.add_sub_cancel' h, show k - 16 < 16 by omega] using congrArg (·.getLsbD (k - 16)) hz

/-! ### The decoder inverts the encoder (30_encoding.md R93, R97) -/

/-- The opcode map, one row a command (30_encoding.md R92). -/
theorem decodeFields_opcode_operand (i : Instr) : decodeFields i.opcode i.operand = .ok i := by
  cases i <;> rfl

theorem withoutOperand_eq_ok {arg : Byte} {j : Instr} (h : withoutOperand i arg = .ok j) : i = j ∧ arg = 0 := by
  unfold withoutOperand at h
  split at h
  · next ha => cases h; exact ⟨rfl, ha⟩
  · cases h

/-- No other opcode and operand give the command. -/
theorem decodeFields_eq_ok_iff {opc arg : Byte} :
    decodeFields opc arg = .ok i ↔ opc = i.opcode ∧ arg = i.operand := by
  refine ⟨fun h => ?_, fun ⟨ho, ha⟩ => ho ▸ ha ▸ decodeFields_opcode_operand i⟩
  unfold decodeFields at h
  split_ifs at h with hcapt hput hroll htrig hacq hclr
  · cases h; exact ⟨hcapt, rfl⟩
  · cases h; exact ⟨hput, rfl⟩
  · obtain ⟨rfl, ha⟩ := withoutOperand_eq_ok h; exact ⟨hroll, ha⟩
  · obtain ⟨rfl, ha⟩ := withoutOperand_eq_ok h; exact ⟨htrig, ha⟩
  · cases h; exact ⟨hacq, rfl⟩
  · obtain ⟨rfl, ha⟩ := withoutOperand_eq_ok h; exact ⟨hclr, ha⟩

/-- What the decoder reads, field by field (30_encoding.md R93). -/
theorem decode_eq_ok_iff :
    decode w = .ok i ↔ zeroField w = 0 ∧ opcField w = i.opcode ∧ argField w = i.operand := by
  unfold decode
  split
  · next hz => exact ⟨fun h => (by cases h), fun h => absurd h.1 hz⟩
  · next hz => rw [decodeFields_eq_ok_iff, and_iff_right (not_not.1 hz)]

/-- The decoder reads a command from its word and from no other (30_encoding.md R96). -/
theorem decode_eq_ok_iff_encode : decode w = .ok i ↔ w = encode i := by
  obtain ⟨ho, ha, hz⟩ := Laws.CommandFields.fields i
  rw [decode_eq_ok_iff, word_eq_iff_fields, ho, ha, hz]

/-- Settles O2: the three fields of the encoding are those that the decoder asks for. -/
theorem decodeEncodeAgree : Obligations.DecodeEncodeAgree := fun _ => decode_eq_ok_iff_encode.2 rfl

/-- Settles O3: the fields that the decoder asks for are the whole word. -/
theorem decodedWordIsEncoding : Obligations.DecodedWordIsEncoding := fun _ _ h => (decode_eq_ok_iff_encode.1 h).symm

theorem encode_injective : Function.Injective encode := fun i j h => by
  have hj := decodeEncodeAgree j
  rw [← h, decodeEncodeAgree i] at hj
  exact Except.ok.inj hj

/-! ### The mask and match columns (30_encoding.md R92) -/

/-- The mask covers the zero field and the opcode, where the match column has the command's own. -/
theorem mask_covers_zero_opcode (i : Instr) :
    (zeroField i.mask = BitVec.allOnes 16 ∧ zeroField i.pattern = 0) ∧
    (opcField i.mask = BitVec.allOnes 8 ∧ opcField i.pattern = i.opcode) := by
  cases i <;> simp only [Instr.mask, Instr.pattern, Instr.opcode] <;> decide

/-- Where the mask covers the operand the match column has the command's own, which is zero. -/
theorem operand_and_mask (i : Instr) : i.operand &&& argField i.mask = argField i.pattern := by
  cases i with
  | capt n | put n | acq n =>
    have hm : argField 0xFFFF00FF#32 = 0#8 := by decide
    simp only [Instr.mask, Instr.pattern, hm, BitVec.and_zero]
    decide
  | roll | trig | clr => decide

theorem zeroField_and (v w : Word) : zeroField (v &&& w) = zeroField v &&& zeroField w := BitVec.extractLsb'_and

theorem opcField_and (v w : Word) : opcField (v &&& w) = opcField v &&& opcField w := BitVec.extractLsb'_and

theorem argField_and (v w : Word) : argField (v &&& w) = argField v &&& argField w := BitVec.extractLsb'_and

/-- Settles O4: the masked word is the match column field by field, and the operand adds its own. -/
theorem maskMatchSelectsCommand : Obligations.MaskMatchSelectsCommand := fun w i => by
  obtain ⟨⟨hmz, hpz⟩, hmo, hpo⟩ := mask_covers_zero_opcode i
  have hmasked : w &&& i.mask = i.pattern ↔
      zeroField w = 0 ∧ opcField w = i.opcode ∧ argField w &&& argField i.mask = argField i.pattern := by
    rw [word_eq_iff_fields, zeroField_and, opcField_and, argField_and, hmz, hpz, hmo, hpo, BitVec.and_allOnes,
      BitVec.and_allOnes]
  rw [decode_eq_ok_iff, hmasked]
  exact ⟨fun ⟨hz, ho, ha⟩ => ⟨⟨hz, ho, ha ▸ operand_and_mask i⟩, ha⟩, fun ⟨⟨hz, ho, _⟩, ha⟩ => ⟨hz, ho, ha⟩⟩

/-! ### The legal words (30_encoding.md R94) -/

/-- The operands below a bound, in order. -/
def operandsBelow (k : Nat) : List Byte := (List.range k).map (BitVec.ofNat 8)

theorem length_operandsBelow (k : Nat) : (operandsBelow k).length = k := by simp [operandsBelow]

theorem mem_operandsBelow {k : Nat} {n : Byte} : n ∈ operandsBelow k ↔ n.toNat < k := by
  simp only [operandsBelow, List.mem_map, List.mem_range]
  constructor
  · rintro ⟨a, ha, rfl⟩
    exact (Nat.mod_le _ _).trans_lt ha
  · exact fun h => ⟨n.toNat, h, BitVec.ofNat_toNat ..⟩

theorem nodup_operandsBelow {k : Nat} (hk : k ≤ 256) : (operandsBelow k).Nodup := by
  refine List.nodup_range.map_on fun a ha b hb h => ?_
  rw [List.mem_range] at ha hb
  have := congrArg BitVec.toNat h
  simp only [BitVec.toNat_ofNat] at this
  omega

/-- The commands with their operands in range, opcode by opcode (30_encoding.md R92). -/
def legalCommands : List Instr :=
  (operandsBelow 129).map .capt ++ ((operandsBelow 128).map .put ++ (.roll :: .trig ::
    ((operandsBelow 129).map .acq ++ [.clr])))

theorem length_legalCommands : legalCommands.length = 389 := by simp [legalCommands, length_operandsBelow]

theorem mem_legalCommands : i ∈ legalCommands ↔ i.wellFormed = true := by
  cases i <;> simp [legalCommands, Instr.wellFormed, mem_operandsBelow, Nat.lt_succ_iff]

theorem nodup_legalCommands : legalCommands.Nodup := by
  have hc : ((operandsBelow 129).map Instr.capt).Nodup :=
    (nodup_operandsBelow (by decide)).map fun _ _ => Instr.capt.inj
  have hp : ((operandsBelow 128).map Instr.put).Nodup :=
    (nodup_operandsBelow (by decide)).map fun _ _ => Instr.put.inj
  have ha : ((operandsBelow 129).map Instr.acq).Nodup :=
    (nodup_operandsBelow (by decide)).map fun _ _ => Instr.acq.inj
  simp [legalCommands, List.nodup_append', List.disjoint_left, hc, hp, ha]

/-- Settles O5: the encodings of the commands in range, one word each. -/
theorem legalWordsAre389 : Obligations.LegalWordsAre389 := by
  refine ⟨legalCommands.map encode, ?_, nodup_legalCommands.map encode_injective, fun w => ?_⟩
  · rw [List.length_map, length_legalCommands]
  · simp only [List.mem_map, mem_legalCommands, decode_eq_ok_iff_encode, eq_comm (a := w), and_comm]

/-- Settles O1, by running the decoder. -/
theorem opcodeMapWords : Obligations.OpcodeMapWords := by
  unfold Obligations.OpcodeMapWords
  decide

end Sys2Proof
end

section
/-! SUPPORT. The verdict on a word written to `CMD`, in the numbers of its fields, and the poll of `WAIT`. -/

namespace Sys2Proof

/-! ### Opcode and operand as numbers (30_encoding.md R92) -/

theorem Instr.opcode_range (i : Instr) : 1 ≤ i.opcode.toNat ∧ i.opcode.toNat ≤ 6 := by
  cases i <;> simp [Instr.opcode]

theorem Instr.operand_eq_zero {i : Instr} (h : i.opcode.toNat = 3 ∨ i.opcode.toNat = 4 ∨ i.opcode.toNat = 6) :
    i.operand.toNat = 0 := by
  cases i with
  | capt | put | acq => simp [Instr.opcode] at h
  | roll | trig | clr => rfl

/-- The range checks, in numbers (30_encoding.md R93 steps 5 and 6). -/
theorem Instr.wellFormed_iff {i : Instr} : i.wellFormed = true ↔
    ¬((i.opcode.toNat = 1 ∨ i.opcode.toNat = 5) ∧ 128 < i.operand.toNat) ∧
    ¬(i.opcode.toNat = 2 ∧ 127 < i.operand.toNat) := by
  cases i <;> simp [Instr.wellFormed, Instr.opcode, Instr.operand]

/-- Each opcode with an operand that it allows is a command's. -/
theorem exists_instr_of_fields {opc arg : Byte} (h : 1 ≤ opc.toNat ∧ opc.toNat ≤ 6)
    (ha : ¬((opc.toNat = 3 ∨ opc.toNat = 4 ∨ opc.toNat = 6) ∧ arg.toNat ≠ 0)) :
    ∃ i : Instr, opc = i.opcode ∧ arg = i.operand := by
  have hzero (h : opc.toNat = 3 ∨ opc.toNat = 4 ∨ opc.toNat = 6) : arg = 0 :=
    BitVec.eq_of_toNat_eq (by_contra fun hn => ha ⟨h, hn⟩)
  obtain h | h | h | h | h | h : opc.toNat = 1 ∨ opc.toNat = 2 ∨ opc.toNat = 3 ∨ opc.toNat = 4 ∨ opc.toNat = 5 ∨
    opc.toNat = 6 := by omega
  · exact ⟨.capt arg, BitVec.eq_of_toNat_eq h, rfl⟩
  · exact ⟨.put arg, BitVec.eq_of_toNat_eq h, rfl⟩
  · exact ⟨.roll, BitVec.eq_of_toNat_eq h, hzero (by omega)⟩
  · exact ⟨.trig, BitVec.eq_of_toNat_eq h, hzero (by omega)⟩
  · exact ⟨.acq arg, BitVec.eq_of_toNat_eq h, rfl⟩
  · exact ⟨.clr, BitVec.eq_of_toNat_eq h, hzero (by omega)⟩

/-- A word with a zero field, a known opcode and an operand that it allows is a command (30_encoding.md R93). -/
theorem exists_decode_of_fields {w : Word} (hz : (zeroField w).toNat = 0)
    (ho : 1 ≤ (opcField w).toNat ∧ (opcField w).toNat ≤ 6)
    (ha : ¬(((opcField w).toNat = 3 ∨ (opcField w).toNat = 4 ∨ (opcField w).toNat = 6) ∧ (argField w).toNat ≠ 0)) :
    ∃ i, decode w = .ok i := by
  obtain ⟨i, hopc, harg⟩ := exists_instr_of_fields ho ha
  exact ⟨i, decode_eq_ok_iff.2 ⟨BitVec.eq_of_toNat_eq hz, hopc, harg⟩⟩

end Sys2Proof

namespace Sys2Proof.Machine

variable {s : State}

/-! ### The verdict on a word (30_encoding.md R93) -/

theorem samples_iff {i : Instr} : samples i = true ↔ i.opcode.toNat ≤ 5 := by
  cases i <;> simp [samples, Instr.opcode]

theorem writeCmd_busy (w : Word) (hb : s.busy = true) : writeCmd w s = .next (s.raise .bsy) := by
  rw [writeCmd, if_pos hb]

/-- An idle block refuses a word that is no command. -/
theorem writeCmd_of_not_decoded {w : Word} (hb : s.busy = false) (hw : ∀ i, decode w ≠ .ok i) :
    writeCmd w s = .next (s.raise .op) := by
  rw [writeCmd, hb]
  cases hd : decode w with
  | ok i => exact absurd hd (hw i)
  | error _ => rfl

theorem acceptOf_done (i : Instr) (s : State) : (acceptOf i s).done = false := by cases i <;> rfl

/-- Settles O6: up to the operand's legality no command has the word's fields; from there one has, and its checks
are in the numbers of its opcode and operand. -/
theorem commandVerdictOrder : Obligations.CommandVerdictOrder := by
  intro w s opc arg upper verdict
  have hverdict : verdict = writeCmd w s := performAccess_write (r := .cmd) (by decide) w s
  have hfields {i : Instr} (hi : decode w = .ok i) :
      upper = 0 ∧ opc = i.opcode.toNat ∧ arg = i.operand.toNat := by
    obtain ⟨hz, ho, ha⟩ := decode_eq_ok_iff.1 hi
    exact ⟨congrArg BitVec.toNat hz, congrArg BitVec.toNat ho, congrArg BitVec.toNat ha⟩
  rw [hverdict]
  split
  · next hb => exact writeCmd_busy w hb
  next hb =>
  rw [Bool.not_eq_true] at hb
  split
  · next hz => exact writeCmd_of_not_decoded hb fun i hi => hz (hfields hi).1
  next hz =>
  split
  · next ho => exact writeCmd_of_not_decoded hb fun i hi => ho ((hfields hi).2.1 ▸ i.opcode_range)
  next ho =>
  split
  · next hn =>
    refine writeCmd_of_not_decoded hb fun i hi => ?_
    obtain ⟨-, hopc, harg⟩ := hfields hi
    exact hn.2 (harg.trans (Instr.operand_eq_zero (hopc ▸ hn.1)))
  next hn =>
  obtain ⟨i, hi⟩ := exists_decode_of_fields (not_not.1 hz) (not_not.1 ho) hn
  obtain ⟨-, hopc, harg⟩ := hfields hi
  rw [writeCmd_of_decode hi, hopc, harg]
  split
  · next hc => exact exec_outOfRange hb (eq_false_of_ne_true fun hw => (Instr.wellFormed_iff.1 hw).1 hc)
  next hc =>
  split
  · next hx => exact exec_outOfRange hb (eq_false_of_ne_true fun hw => (Instr.wellFormed_iff.1 hw).2 hx)
  next hx =>
  have hw : i.wellFormed = true := Instr.wellFormed_iff.2 ⟨hc, hx⟩
  split
  · next hs => exact exec_unconfigured hb hw (samples_iff.2 hs.1) hs.2
  next hs =>
  have he : exec i s = .next (acceptOf i s) := exec_accepted hb hw fun h h0 => hs ⟨samples_iff.1 h, h0⟩
  exact ⟨i, _, hi, rfl, rfl, he, he, acceptOf_busy i s, acceptOf_done i s, acceptOf_err i s⟩

/-! ### The poll of `WAIT` (30_encoding.md R98) -/

/-- A read of `STATUS` is exact in `BUSY` and `DONE`, and changes at most the count of UNSPECIFIED values. -/
theorem readReg_status (s : State) :
    ∃ c u, readReg .status s = (statusWord c s.done s.busy, { s with unspecDraws := u }) := by
  by_cases hb : s.busy = true
  · exact ⟨s.unspecifiedWord.extractLsb' 0 2, s.unspecDraws + 1, readReg_unspecified hb rfl⟩
  · exact ⟨s.tstate.code, s.unspecDraws, readReg_idle (eq_false_of_ne_true hb)⟩

/-- A poll records what it read, `BUSY` in bit 0, and takes the statement off the list where `BUSY` is 0. -/
theorem waitStep_eq (s : State) : ∃ v u, v.getLsbD 0 = s.busy ∧
    waitStep s = { s with
      unspecDraws := u, reads := ⟨0x04#8, .four, v⟩ :: s.reads,
      script := if s.busy then s.script else s.script.tail } := by
  obtain ⟨c, u, hread⟩ := readReg_status s
  have hbit := (statusWord_bits c s.done s.busy).1
  refine ⟨statusWord c s.done s.busy, u, hbit, ?_⟩
  rw [waitStep, hread, hbit]
  cases s.busy <;> rfl

theorem hostStep_wait {rest : List HostStmt} (hs : s.script = .wait :: rest) :
    hostStep s = .next (waitStep s).holdReset := by
  rw [hostStep, hs]

/-- Settles O47: the poll, which changes nothing that the reset input holds. -/
theorem waitEndsWhenNotBusy : Obligations.WaitEndsWhenNotBusy := fun s rest hr hs => by
  obtain ⟨v, u, hv, hpoll⟩ := waitStep_eq s
  have hheld : (waitStep s).holdReset = waitStep s := by rw [hpoll, holdReset_hostSide hr]
  refine ⟨waitStep s, v, hheld ▸ hostStep_wait hs, ?_⟩
  rw [hpoll]
  refine ⟨rfl, hv, fun hb => if_pos hb, fun hb => ?_, rfl⟩
  simp [hb, hs]

end Sys2Proof.Machine
end

section
/-! SUPPORT. The quantizer as rounding, saturation, bound and order, and the time of a paced sample. -/

namespace Sys2Proof.Machine

variable {uv mv : Int} {s : State}

/-! ### The quotient (40_sampling.md R110) -/

/-- The quotient of a reading not below zero is the whole part: at most the exact quotient, and less than 1 below it. -/
theorem quantRaw_floor (hm : 1 ≤ mv) (h : 0 ≤ uv) :
    0 ≤ quantRaw uv mv ∧ quantRaw uv mv * (mv * 1000) ≤ uv * 16 ∧ uv * 16 < (quantRaw uv mv + 1) * (mv * 1000) := by
  have hpos : 0 < mv * 1000 := by omega
  rw [quantRaw_of_nonneg h]
  exact ⟨Int.ediv_nonneg (by omega) hpos.le, Int.ediv_mul_le _ hpos.ne', Int.lt_ediv_add_one_mul_self _ hpos⟩

/-- The quotient of a reading not above zero, by the symmetry about zero: at least the exact quotient, and less than 1
above it. -/
theorem quantRaw_ceil (hm : 1 ≤ mv) (h : uv ≤ 0) :
    quantRaw uv mv ≤ 0 ∧ uv * 16 ≤ quantRaw uv mv * (mv * 1000) ∧ (quantRaw uv mv - 1) * (mv * 1000) < uv * 16 := by
  obtain ⟨hq, hlo, hhi⟩ := quantRaw_floor hm (Int.neg_nonneg_of_nonpos h)
  rw [quantRaw_neg] at hq hlo hhi
  exact ⟨by linarith, by linarith, by linarith⟩

/-- One division of `mv` millivolts is 16 pixels. -/
theorem quantRaw_division (hm : 1 ≤ mv) : quantRaw (mv * 1000) mv = 16 := by
  rw [quantRaw_def, Int.mul_tdiv_cancel_left _ (by omega)]

/-- Settles O28: the floor at and above zero, the ceiling at and below it. -/
theorem quantRawTruncatesTowardZero : Obligations.QuantRawTruncatesTowardZero :=
  fun _ _ hm _ => ⟨quantRaw_floor hm, quantRaw_ceil hm, quantRaw_division hm⟩

/-! ### Saturation (40_sampling.md R112) -/

theorem quant_of_neg (h : quantRaw uv mv < 0) : quant uv mv = 0#8 := by
  rw [quant, clampByte, if_pos h]

theorem quant_of_gt (h : 255 < quantRaw uv mv) : quant uv mv = 255#8 := by
  rw [quant, clampByte, if_neg (by omega), if_pos h]

theorem quant_toNat_of_mem (h0 : 0 ≤ quantRaw uv mv) (h255 : quantRaw uv mv ≤ 255) :
    ((quant uv mv).toNat : Int) = quantRaw uv mv := by
  rw [quant_toNat, min_eq_right h255, max_eq_right h0]

/-- Settles O29: the three ranges of the quotient; a Sample is by definition that of the next reading, and takes only
that reading. -/
theorem quantSaturatesToByte : Obligations.QuantSaturatesToByte :=
  ⟨fun _ _ _ _ => ⟨quant_of_neg, quant_of_gt, quant_toNat_of_mem⟩, fun _ _ => rfl⟩

/-! ### Bound and order (40_sampling.md R113) -/

/-- The quotient is largest in magnitude at the smallest scale, 1 mV. -/
theorem quantRaw_natAbs_le (hm : 1 ≤ mv) : (quantRaw uv mv).natAbs ≤ uv.natAbs * 16 / 1000 := by
  rw [quantRaw_def, Int.natAbs_tdiv, Int.natAbs_mul]
  exact Nat.div_le_div_left (by omega) (by decide)

theorem quantRaw_abs_lt (raw : Word) (hm : 1 ≤ mv) : |quantRaw raw.toInt mv| < 34359739 := by
  have hq := quantRaw_natAbs_le (uv := raw.toInt) hm
  have hlo := BitVec.le_toInt raw
  have hhi := BitVec.toInt_lt (x := raw)
  exact abs_lt.2 (by omega)

theorem quantRaw_word_exact (raw : Word) (hm : 1 ≤ mv) :
    (BitVec.ofInt 32 (quantRaw raw.toInt mv)).toInt = quantRaw raw.toInt mv := by
  obtain ⟨hlo, hhi⟩ := abs_lt.1 (quantRaw_abs_lt raw hm)
  exact BitVec.toInt_ofInt_eq_self (by decide) (by omega) (by omega)

theorem quantRaw_mono {a b : Int} (hm : 1 ≤ mv) (h : a ≤ b) : quantRaw a mv ≤ quantRaw b mv :=
  Int.tdiv_le_tdiv (by omega) (Int.mul_le_mul_of_nonneg_right h (by decide))

/-- Saturation keeps the order of the quotients. -/
theorem quant_mono {a b : Int} (hm : 1 ≤ mv) (h : a ≤ b) : (quant a mv).toNat ≤ (quant b mv).toNat := by
  have hraw := quantRaw_mono hm h
  have ha := quant_toNat a mv
  have hb := quant_toNat b mv
  omega

/-- Settles O30: the bound at 1 mV, under which 32 bits are exact, and the monotony of truncation and saturation. -/
theorem quantizerFitsAndIsMonotone : Obligations.QuantizerFitsAndIsMonotone :=
  ⟨fun raw _ hm _ => ⟨quantRaw_abs_lt raw hm, quantRaw_word_exact raw hm⟩,
    fun _ _ _ hm _ h => ⟨quantRaw_mono hm h, quant_mono hm h⟩⟩

/-! ### Back to volts (40_sampling.md R121) -/

theorem voltsFrom_quant {mv : Nat} (h0 : 0 ≤ quantRaw uv mv) (h255 : quantRaw uv mv ≤ 255) :
    voltsFrom (quant uv mv) mv = (quantRaw uv mv : Rat) * mv / 16000 := by
  have hq : ((quant uv mv).toNat : Rat) = quantRaw uv mv := by exact_mod_cast quant_toNat_of_mem h0 h255
  rw [voltsFrom, Nat.cast_mul, hq]

/-- Settles O31: the two sides of the floor, divided by 16000000. -/
theorem voltsRoundTripWithinOnePixel : Obligations.VoltsRoundTripWithinOnePixel := by
  intro uv mv hm _ huv h255
  obtain ⟨h0, hlo, hhi⟩ := quantRaw_floor (mv := mv) (by exact_mod_cast hm) huv
  have hlo' : (quantRaw uv mv : Rat) * (mv * 1000) ≤ uv * 16 := by exact_mod_cast hlo
  have hhi' : (uv : Rat) * 16 < (quantRaw uv mv + 1) * (mv * 1000) := by exact_mod_cast hhi
  rw [voltsFrom_quant h0 h255]
  exact ⟨by linarith, by linarith⟩

/-! ### Pacing (40_sampling.md R118, R119) -/

theorem pacingDelay_of_overrun {interval elapsed : Word} (h : interval.toNat ≤ elapsed.toNat) :
    pacingDelay interval elapsed = 0 := if_pos h

theorem pacingDelay_toNat_of_lt {interval elapsed : Word} (h : elapsed.toNat < interval.toNat) :
    (pacingDelay interval elapsed).toNat = interval.toNat - elapsed.toNat := by
  have hsum := elapsed_add_delay interval elapsed
  omega

theorem pacedSample_unpaced (h : s.intervalUs = 0) : pacedSample s = sample1 s := if_pos h

theorem pacedSample_paced (h : s.intervalUs ≠ 0) : (pacedSample s).2 = s.afterPacing := by
  rw [pacedSample_snd, if_neg h]

/-- A paced sample takes one reading and sets no error bit, changes no cell and not `BUSY`. -/
theorem pacedSample_keeps :
    (pacedSample s).2.adc = s.adc.skip 1 ∧ (pacedSample s).2.err = s.err ∧
    (pacedSample s).2.buf = s.buf ∧ (pacedSample s).2.busy = s.busy := by
  obtain ⟨t0, now, us, hu⟩ := pacedSample_frame (s := s)
  rw [hu]
  exact ⟨rfl, rfl, rfl, rfl⟩

/-- Settles O32: without an interval the unpaced sample, with one the state after pacing, whose time is the sum of the
elapsed time and the wait; the rest by the frame of a paced sample. -/
theorem pacedSampleDelayNeverNegative : Obligations.PacedSampleDelayNeverNegative := by
  intro s elapsed u
  refine ⟨by rw [pacedSample_fst, sample1_fst], pacedSample_unpaced, fun hi => ?_, pacedSample_keeps⟩
  have hu : u = s.afterPacing := pacedSample_paced hi
  rw [hu]
  refine ⟨s.afterPacing_t0, s.afterPacing_now, ?_, pacingDelay_of_overrun, pacingDelay_toNat_of_lt⟩
  rw [State.afterPacing_pacedUs, elapsed_add_delay]

end Sys2Proof.Machine
end

section
/-! SUPPORT. `CAPT` and `PUT` from issue to `finish`, through what both do to the buffer: the first samples in order, from
cell 0 on. -/

namespace Sys2Proof.Machine

variable {s u : State}

/-! ### The first samples in the first cells -/

/-- The buffer of `s` with its next `m` samples in cells 0 to `m - 1`, in order (41_acquisition.md R131, R137). -/
structure Captured (s : State) (m : Nat) (b : Memory) : Prop where
  wf : Memory.wf b = true
  stored : ∀ k < m, Memory.read b (cellOffset k) = s.sampleAt k
  kept : ∀ a, ¬(cellOffset 0 ≤ a ∧ a < cellOffset m) → Memory.read b a = Memory.read s.buf a

theorem Captured.zero (hw : Memory.wf s.buf = true) : Captured s 0 s.buf :=
  ⟨hw, fun _ hk => absurd hk (Nat.not_lt_zero _), fun _ _ => rfl⟩

/-- The next sample in the next cell. -/
theorem Captured.succ {m : Nat} {b : Memory} (h : Captured s m b) (hm : m < 128) :
    Captured s (m + 1) (Memory.write b (cellOffset m) (s.sampleAt m)) where
  wf := Memory.wf_write_cell h.wf hm
  stored k hk := by
    rw [Memory.read_write h.wf]
    split
    · next e => rw [Nat.add_left_cancel e]
    · next e => exact h.stored k (by simp only [cellOffset] at e; omega)
  kept a ha := by
    simp only [cellOffset] at ha
    rw [Memory.read_write_other (by simp only [cellOffset]; omega),
      h.kept a (by simp only [cellOffset]; omega)]

/-- Such a buffer is one, since the canonical form is unique (10_state.md R37). -/
theorem Captured.unique {m : Nat} {b b' : Memory} (h : Captured s m b) (h' : Captured s m b') : b = b' := by
  refine Memory.ext_of_read h.wf h'.wf fun a => ?_
  by_cases ha : cellOffset 0 ≤ a ∧ a < cellOffset m
  · have ha' : a = cellOffset (a - cellOffset 0) := by simp only [cellOffset] at ha ⊢; omega
    have hk : a - cellOffset 0 < m := by simp only [cellOffset] at ha ⊢; omega
    rw [ha', h.stored _ hk, h'.stored _ hk]
  · rw [h.kept a ha, h'.kept a ha]

/-- Under the same scale, samples are numbered by the readings used up (40_sampling.md R114, R117). -/
theorem sampleAt_of_skip {m : Nat} (hm : u.scaleMv = s.scaleMv) (ha : u.adc = s.adc.skip m) (k : Nat) :
    u.sampleAt k = s.sampleAt (m + k) := by
  simp only [State.sampleAt, State.reading, quantize_congr hm, ha, Draws.skip_skip]

/-! ### The capture (41_acquisition.md R131) -/

/-- The step of a capture that has a cell to go. -/
theorem captLoop_stores (hp : s.ph = .captLoop) (hs : s.scaleMv ≠ 0) (hn : s.n.toNat ≤ 128) (hlt : s.i < s.n) :
    engineStep s = .next (storeCaptured (s.sampleAt 0) (pacedSample s).2) := by
  have hi : s.i.toNat < 128 := by rw [BitVec.lt_def] at hlt; omega
  rw [engineStep_captLoop hp, captLoopStep_next]
  exact .inl ⟨hlt, hi, hs, rfl⟩

/-- Settles O18: the step of a capture with a cell to go stores the sample, whose pacing touches `T0`, the oracles and
the time only; without one it is `finish`. -/
theorem captLoopStoresOrFinishes : Obligations.CaptLoopStoresOrFinishes := fun s hp hs hn hw => by
  refine ⟨fun hlt => ⟨_, captLoop_stores hp hs hn hlt, ?_⟩, fun hlt => ?_⟩
  · have hunpaced : s.intervalUs = 0 → (pacedSample s).2.t0 = s.t0 ∧ (pacedSample s).2.now = s.now := fun h0 => by
      rw [pacedSample_unpaced h0]
      exact ⟨rfl, rfl⟩
    have hi : (s.i + 1).toNat = s.i.toNat + 1 := by bv_omega
    obtain ⟨t0, now, us, he⟩ := pacedSample_frame (s := s)
    rw [he] at hunpaced ⊢
    exact ⟨hp, hi, Memory.read_write_same hw, fun _ ha => Memory.read_write_other ha.symm, hunpaced, rfl⟩
  · rw [engineStep_captLoop hp, captLoopStep_next]
    exact .inr ⟨hlt, rfl⟩

/-- A capture from index 0 runs to `finish`: as many steps as it has cells, and one more. -/
theorem capture_completes (hp : s.ph = .captLoop) (hs : s.scaleMv ≠ 0) (hw : Memory.wf s.buf = true)
    (hn : s.n.toNat ≤ 128) (hi : s.i = 0) :
    ∃ u, engineRun (s.n.toNat + 1) s = .next u ∧ Captured s s.n.toNat u.buf ∧
      u.now = s.now.skip (if s.intervalUs = 0 then 0 else 2 * s.n.toNat) ∧
      s.pacedUs + s.n.toNat * s.intervalUs.toNat ≤ u.pacedUs ∧
      u = { s with
        buf := u.buf, busy := false, done := true, ph := .idle, i := s.n, t0 := u.t0,
        adc := s.adc.skip s.n.toNat, now := u.now, pacedUs := u.pacedUs } := by
  have hi0 : s.i.toNat = 0 := by rw [hi]; rfl
  obtain ⟨v, hrun, hvw, hvi, hcells, hkept, hnow, hus, hv⟩ := capt_run s.n.toNat hp hs hw hn (by omega)
  rw [hi0, Nat.zero_add] at hvi hkept
  simp only [hi0, Nat.zero_add] at hcells
  have hvp : v.ph = .captLoop := by rw [hv]; exact hp
  have hvn : v.n = s.n := by rw [hv]
  have hvin : v.i = s.n := BitVec.eq_of_toNat_eq hvi
  have hlast : engineRun 1 v = .next v.finish :=
    engineRun_one (by simp [hvp]) (capt_finish hvp (by rw [hvin, hvn]))
  refine ⟨v.finish, engineRun_add hrun hlast, ⟨hvw, hcells, hkept⟩, hnow, hus, ?_⟩
  simp only [State.finish]
  rw [hv, hvin]

/-- `CAPT n` up to the end of its last step. -/
theorem capt_completes {n : Byte} (hb : s.busy = false) (hs : s.scaleMv ≠ 0) (hw : Memory.wf s.buf = true)
    (hn : n.toNat ≤ 128) :
    exec (.capt n) s = .next (acceptCapt n s) ∧
    ∃ u, engineRun (n.toNat + 1) (acceptCapt n s) = .next u ∧ Captured s n.toNat u.buf ∧
      u.now = s.now.skip (if s.intervalUs = 0 then 0 else 2 * n.toNat) ∧
      s.pacedUs + n.toNat * s.intervalUs.toNat ≤ u.pacedUs ∧
      u = { s with
        buf := u.buf, busy := false, done := true, ph := .idle, opc := .capt, n := n, i := n, t0 := u.t0,
        adc := s.adc.skip n.toNat, now := u.now, pacedUs := u.pacedUs } := by
  refine ⟨exec_accepted hb (decide_eq_true hn) fun _ => hs, ?_⟩
  obtain ⟨u, hrun, hcap, hrest⟩ := capture_completes (s := acceptCapt n s) rfl hs hw hn rfl
  exact ⟨u, hrun, ⟨hcap.wf, hcap.stored, hcap.kept⟩, hrest⟩

/-- Settles O8: the capture from index 0; until its last step it stays in its loop. -/
theorem captFillsCellsInOrder : Obligations.CaptFillsCellsInOrder := fun n s hb hs hw hn => by
  obtain ⟨hacc, u, hrun, hcap, hnow, hus, hu⟩ := capt_completes hb hs hw hn
  have hadc : u.adc = s.adc.skip n.toNat := by rw [hu]
  refine ⟨_, u, hacc, hrun, fun k hk => ?_, hcap.stored, hcap.kept, hadc, hnow, hus, by rw [hadc]; exact hu⟩
  obtain ⟨v, hv, -, -, -, -, -, -, hframe⟩ :=
    capt_run k (s := acceptCapt n s) rfl hs hw hn (show (0#8).toNat + k ≤ n.toNat by simpa using hk)
  exact ⟨v, hv, by rw [hframe]; rfl, by rw [hframe]; rfl⟩

/-! ### `PUT` (41_acquisition.md R133, R134) -/

/-- What `PUT k` leaves of an idle state. -/
def State.afterPut (k : Byte) (s : State) : State :=
  { s with
    buf := Memory.write s.buf (cellOffset k.toNat) (s.sampleAt 0), busy := false, done := true, ph := .idle,
    opc := .put, idx := BitVec.ofNat 7 k.toNat, adc := s.adc.skip 1 }

theorem exec_put {k : Byte} (hb : s.busy = false) (hs : s.scaleMv ≠ 0) (hk : k.toNat ≤ 127) :
    exec (.put k) s = .next (acceptPut k s) :=
  exec_accepted hb (decide_eq_true hk) fun _ => hs

/-- The one engine step of `PUT k`. -/
theorem put_step {k : Byte} (hs : s.scaleMv ≠ 0) (hk : k.toNat ≤ 127) :
    engineStep (acceptPut k s) = .next (s.afterPut k) := by
  have hidx : (acceptPut k s).idx.toNat = k.toNat := by
    change (k.setWidth 7).toNat = _
    rw [BitVec.toNat_setWidth, Nat.mod_eq_of_lt (by omega)]
  rw [engineStep_putOne rfl, putOneStep_next, hidx]
  exact ⟨hs, rfl⟩

theorem put_run {k : Byte} (hs : s.scaleMv ≠ 0) (hk : k.toNat ≤ 127) :
    engineRun 1 (acceptPut k s) = .next (s.afterPut k) :=
  engineRun_one (by simp [acceptPut]) (put_step hs hk)

/-- Settles O9: acceptance, and the one engine step. -/
theorem putStoresOneCell : Obligations.PutStoresOneCell := fun _ _ hb hs hw hk =>
  ⟨_, _, exec_put hb hs hk, put_run hs hk, Memory.read_write_same hw,
    fun _ ha => Memory.read_write_other ha.symm, rfl⟩

/-! ### Whole commands, one after the other -/

theorem runCommand_of_exec {i : Instr} {t : State} (h : exec i s = .next t) :
    runCommand i s = engineRun (stepBound i s) t := by
  simp only [runCommand, h]

theorem runCommands_cons {i : Instr} {rest : List Instr} {t : State} (h : runCommand i s = .next t) :
    runCommands (i :: rest) s = runCommands rest t := by
  simp only [runCommands, h]

theorem runCommands_singleton (i : Instr) (s : State) : runCommands [i] s = runCommand i s := by
  cases hc : runCommand i s <;> simp [runCommands, hc]

/-- One more command after a sequence that completes. -/
theorem runCommands_append_singleton {cs : List Instr} {i : Instr} (h : runCommands cs s = .next u) :
    runCommands (cs ++ [i]) s = runCommand i u := by
  induction cs generalizing s with
  | nil =>
    cases h
    exact runCommands_singleton i _
  | cons c cs ih =>
    cases hc : runCommand c s with
    | next t =>
      rw [runCommands_cons hc] at h
      rw [List.cons_append, runCommands_cons hc, ih h]
    | fault r => simp [runCommands, hc] at h
    | refused r => simp [runCommands, hc] at h

/-- `PUT 0` to `PUT m-1`, each after the one before has finished (41_acquisition.md R137). -/
def puts (m : Nat) : List Instr := (List.range m).map fun k => .put (BitVec.ofNat 8 k)

theorem puts_succ (m : Nat) : puts (m + 1) = puts m ++ [.put (BitVec.ofNat 8 m)] := by
  simp [puts, List.range_succ]

/-- What the sequence of `PUT`s leaves; `DONE` is that of the last one. -/
theorem puts_run (hb : s.busy = false) (hs : s.scaleMv ≠ 0) (hw : Memory.wf s.buf = true) {m : Nat} (hm : m ≤ 128) :
    ∃ u, runCommands (puts m) s = .next u ∧ Captured s m u.buf ∧ (1 ≤ m → u.done = true ∧ u.ph = .idle) ∧
      u = { s with
        buf := u.buf, done := u.done, ph := u.ph, opc := u.opc, idx := u.idx, adc := s.adc.skip m } := by
  induction m with
  | zero => exact ⟨s, rfl, .zero hw, fun h => absurd h (by decide), rfl⟩
  | succ m ih =>
    obtain ⟨u, hrun, hcap, -, hu⟩ := ih (by omega)
    have hub : u.busy = false := by rw [hu]; exact hb
    have hus : u.scaleMv ≠ 0 := by rw [hu]; exact hs
    have hk : (BitVec.ofNat 8 m).toNat = m := by rw [BitVec.toNat_ofNat, Nat.mod_eq_of_lt (by omega)]
    have hput : runCommand (.put (BitVec.ofNat 8 m)) u = .next (u.afterPut (BitVec.ofNat 8 m)) := by
      rw [runCommand_of_exec (exec_put hub hus (by omega))]
      exact put_run hus (by omega)
    have hsample : u.sampleAt 0 = s.sampleAt m := sampleAt_of_skip (by rw [hu]) (by rw [hu]) 0
    refine ⟨_, by rw [puts_succ, runCommands_append_singleton hrun, hput], ?_, fun _ => ⟨rfl, rfl⟩, ?_⟩
    · change Captured s (m + 1) (Memory.write u.buf _ _)
      rw [hk, hsample]
      exact hcap.succ (by omega)
    · simp only [State.afterPut]
      rw [hu, ← hb, Draws.skip_skip]

/-- Settles O15: both leave the one buffer with the first `n` samples in order, and differ otherwise only in what the
host does not see: the sequencer, the time base's answers and the time. -/
theorem captEqualsPuts : Obligations.CaptEqualsPuts := fun n s hb hs hw h1 hn => by
  obtain ⟨hacc, u, hrun, hcap, -, -, hu⟩ := capt_completes hb hs hw hn
  obtain ⟨v, hputs, hcap', hdone, hv⟩ := puts_run hb hs hw hn
  obtain ⟨hvd, hvp⟩ := hdone h1
  have hbuf : u.buf = v.buf := hcap.unique hcap'
  refine ⟨u, v, (runCommand_of_exec hacc).trans hrun, hputs, ?_, hbuf, by rw [hu], hvp, by rw [hu, hv]⟩
  rw [hu, hv, hbuf, hvd, ← hb]
  rfl

end Sys2Proof.Machine
end

section
/-! SUPPORT. The pacing of a run of the engine: the time base and the time that has passed follow the
readings used up. -/

namespace Sys2Proof.Machine

variable {s u v : State} {m m' : Nat}

/-- The time of the paced sample number `k` from now (40_sampling.md R118, 70_reset_and_hazards.md R267). -/
def State.pacedSpan (s : State) (k : Nat) : Nat :=
  if s.intervalUs = 0 then 0 else max (s.timeStamp (2 * k + 1) - s.timeStamp (2 * k)).toNat s.intervalUs.toNat

/-- From `s` to `u` the oracles were asked by `m` paced samples and by nothing else (40_sampling.md R118). -/
structure Paced (s u : State) (m : Nat) : Prop where
  interval : u.intervalUs = s.intervalUs
  readings : u.adc = s.adc.skip m
  stamps : u.now = s.now.skip (if s.intervalUs = 0 then 0 else 2 * m)
  time : u.pacedUs = s.pacedUs + ∑ k ∈ Finset.range m, s.pacedSpan k

theorem Paced.refl (s : State) : Paced s s 0 := ⟨rfl, rfl, by simp, by simp⟩

/-- One more paced sample. -/
theorem Paced.sample (h : Paced s u m) : Paced s (pacedSample u).2 (m + 1) := by
  have hreadings : u.adc.skip 1 = s.adc.skip (m + 1) := by rw [h.readings, Draws.skip_skip]
  have hstamps := h.stamps
  have htime := h.time
  by_cases h0 : s.intervalUs = 0
  · rw [pacedSample_unpaced (h.interval.trans h0)]
    rw [if_pos h0] at hstamps
    exact ⟨h.interval, hreadings, by rw [if_pos h0]; exact hstamps, by simpa [State.pacedSpan, h0] using htime⟩
  · rw [pacedSample_paced (h.interval ▸ h0)]
    rw [if_neg h0] at hstamps
    have hstamp (k : Nat) : u.timeStamp k = s.timeStamp (2 * m + k) := by
      simp only [State.timeStamp, hstamps, Draws.skip_skip]
    refine ⟨h.interval, hreadings, ?_, ?_⟩
    · rw [State.afterPacing_now, hstamps, Draws.skip_skip, if_neg h0, Nat.mul_succ]
    · rw [State.afterPacing_pacedUs, elapsed_add_delay, htime, h.interval, hstamp, hstamp, Finset.sum_range_succ,
        State.pacedSpan, if_neg h0, Nat.add_assoc]
      rfl

/-- The interval is a lower bound on the time of each sample (70_reset_and_hazards.md R266). -/
theorem Paced.pacedUs_ge (h : Paced s u m) : s.pacedUs + m * s.intervalUs.toNat ≤ u.pacedUs := by
  have hspan (k : Nat) : s.intervalUs.toNat ≤ s.pacedSpan k := by
    unfold State.pacedSpan
    split
    · next h0 => simp [h0]
    · exact Nat.le_max_right _ _
  have hsum := Finset.card_nsmul_le_sum (Finset.range m) s.pacedSpan _ fun k _ => hspan k
  rw [Finset.card_range, smul_eq_mul] at hsum
  rw [h.time]
  exact Nat.add_le_add_left hsum _

/-- The readings used up count the samples. -/
theorem Paced.count (h : Paced s u m) (ha : u.adc = s.adc.skip m') : m = m' := by
  simpa using congrArg Draws.drawn (h.readings.symm.trans ha)

/-- The readings used up decide the time stamps used up and the time that has passed. -/
theorem Paced.congr (h : Paced s u m) (h' : Paced s v m') (ha : u.adc = v.adc) :
    u.now = v.now ∧ u.pacedUs = v.pacedUs := by
  obtain rfl := h.count (ha.trans h'.readings)
  exact ⟨h.stamps.trans h'.stamps.symm, h.time.trans h'.time.symm⟩

/-- The samples of a step in this phase, if it takes any, are paced ones (40_sampling.md R120). -/
def Phase.paced : Phase → Bool
  | .putOne => false
  | .rollOne => false
  | .idle | .trigCheck | .trigProbe | .captLoop | .clrAll => true

/-- The engine's steps but `PUT`'s and `ROLL`'s sample by pacing. -/
theorem Paced.engineStep (h : Paced s u m) (hp : u.ph.paced = true) (hst : engineStep u = .next v) :
    v.ph.paced = true ∧ ∃ m', Paced s v m' := by
  have hafter (w : State) (hw : Paced s w m) : w.afterSearch.ph.paced = true ∧ ∃ m', Paced s w.afterSearch m' := by
    unfold State.afterSearch
    split
    · exact ⟨rfl, m, hw.interval, hw.readings, hw.stamps, hw.time⟩
    · exact ⟨rfl, m, hw.interval, hw.readings, hw.stamps, hw.time⟩
  have hsample := h.sample
  obtain ⟨t0, now, us, e⟩ := pacedSample_frame (s := u)
  cases engineStep_effect hst with
  | idle => exact ⟨hp, m, h⟩
  | gaveUp | fired => exact hafter _ ⟨h.interval, h.readings, h.stamps, h.time⟩
  | startProbe | evaluatedBelow | evaluatedAbove | captureOver | cleared =>
    exact ⟨rfl, m, h.interval, h.readings, h.stamps, h.time⟩
  | probeSample | captured =>
    rw [e] at hsample ⊢
    exact ⟨hp, m + 1, hsample.interval, hsample.readings, hsample.stamps, hsample.time⟩
  | put hu | rolled hu => rw [hu] at hp; cases hp

theorem Paced.engineRun {k : Nat} (h : Paced s u m) (hp : u.ph.paced = true) (hr : engineRun k u = .next v) :
    ∃ m', Paced s v m' := by
  induction k generalizing u m with
  | zero => cases hr; exact ⟨m, h⟩
  | succ k ih =>
    by_cases hi : u.ph = .idle
    · rw [engineRun_idle _ hi] at hr
      cases hr; exact ⟨m, h⟩
    · cases hst : Machine.engineStep u with
      | next t =>
        obtain ⟨hpt, m', ht⟩ := h.engineStep hp hst
        exact ih ht hpt (engineRun_succ hi hst ▸ hr)
      | fault r => simp [Machine.engineRun, hi, hst] at hr
      | refused r => exact absurd hst (engineStep_not_refused r)

theorem Paced.acceptOf (h : Paced s u m) (i : Instr) : Paced s (acceptOf i u) m := by
  cases i <;> exact ⟨h.interval, h.readings, h.stamps, h.time⟩

/-- A command accepted into such a phase, from issue to the end of its run. -/
theorem Paced.runCommand {i : Instr} (h : Paced s u m) (he : exec i u = .next (Machine.acceptOf i u))
    (hp : (Machine.acceptOf i u).ph.paced = true) (hr : runCommand i u = .next v) : ∃ m', Paced s v m' :=
  (h.acceptOf i).engineRun hp (runCommand_of_exec he ▸ hr)

end Sys2Proof.Machine
end

section
/-! SUPPORT. The trigger search: its steps, a complete probe, and the whole search as the pseudocode of 42_trigger.md
R150. -/

namespace Sys2Proof.Machine

variable {s u v : State}

/-! ### The steps of the search (42_trigger.md R153 to R156) -/

/-- The budget is used up (42_trigger.md R153). -/
theorem trigCheck_gives_up (hp : s.ph = .trigCheck) (ha : s.attempts.toNat = s.maxcyc.cycles) :
    engineStep s = .next (s.setTState .gaveUp).afterSearch :=
  (engineStep_trigCheck hp).trans (trigCheckStep_next.2 (.inl ⟨ha, rfl⟩))

/-- The budget allows a probe (42_trigger.md R153). -/
theorem trigCheck_starts (hp : s.ph = .trigCheck) (ha : s.attempts.toNat ≠ s.maxcyc.cycles) :
    engineStep s = .next s.startProbe :=
  (engineStep_trigCheck hp).trans (trigCheckStep_next.2 (.inr ⟨ha, rfl⟩))

/-- The step of a complete probe is its evaluation (42_trigger.md R155). -/
theorem trigProbe_evaluates (hp : s.ph = .trigProbe) (hj : s.j = s.probeW) (hev : evaluateProbe s = .next u) :
    engineStep s = .next u :=
  (engineStep_trigProbe hp).trans (trigProbeStep_next.2 (.inr ⟨hj, hev⟩))

/-- Settles O19: the budget test, and the evaluation by the trigger state and its bit. -/
theorem searchStepsFollowTheRules : Obligations.SearchStepsFollowTheRules := fun s => by
  refine ⟨trigCheck_gives_up, trigCheck_starts, fun hp hj ht hpb => ?_, fun hp hj ht hpb => ?_,
    fun hp hj ht hpa => ?_, fun hp hj ht hpa => ?_⟩
  · refine trigProbe_evaluates hp hj (evaluateProbe_next.2 (.inl ⟨ht, ?_⟩))
    rw [if_pos hpb]
    rfl
  · refine trigProbe_evaluates hp hj (evaluateProbe_next.2 (.inl ⟨ht, ?_⟩))
    rw [if_neg (ne_true_of_eq_false hpb), ← ht]
    rfl
  · exact trigProbe_evaluates hp hj (evaluateProbe_next.2 (.inr (.inl ⟨ht, hpa, rfl⟩)))
  · exact trigProbe_evaluates hp hj (evaluateProbe_next.2 (.inr (.inr ⟨ht, hpa, rfl⟩)))

/-! ### A probe (42_trigger.md R154) -/

section
variable {q q' : Nat → Byte} {level : Int} {w start : Nat}

theorem probeBelow_iff :
    probeBelow q level w start = true ↔ ∀ k < w, ((q (start + k)).toNat : Int) < level := by
  simp [probeBelow]

theorem probeAbove_iff :
    probeAbove q level w start = true ↔ ∀ k < w, level ≤ ((q (start + k)).toNat : Int) := by
  simp [probeAbove]

theorem probeBelow_of_shift (h : ∀ k, q' k = q (start + k)) : probeBelow q' level w 0 = probeBelow q level w start := by
  simp [probeBelow, h]

theorem probeAbove_of_shift (h : ∀ k, q' k = q (start + k)) : probeAbove q' level w 0 = probeAbove q level w start := by
  simp [probeAbove, h]

/-- One sample at or above the level is enough. -/
theorem probeBelow_eq_false (hw : 1 ≤ w) (h : level ≤ ((q start).toNat : Int)) : probeBelow q level w start = false :=
  eq_false_of_ne_true fun hb => absurd (probeBelow_iff.1 hb 0 hw) (not_lt.2 h)

/-- One sample below the level is enough. -/
theorem probeAbove_eq_false (hw : 1 ≤ w) (h : ((q start).toNat : Int) < level) : probeAbove q level w start = false :=
  eq_false_of_ne_true fun ha => absurd (probeAbove_iff.1 ha 0 hw) (not_le.2 h)

end

/-- Settles O20: one sample by the step of its phase, the whole probe by the loop from index 0. -/
theorem probeIsAllOrNothing : Obligations.ProbeIsAllOrNothing := fun s hp hs => by
  refine ⟨fun hj => ?_, fun hj hpb hpa => ?_⟩
  · obtain ⟨t0, now, us, he⟩ := pacedSample_frame (s := s)
    refine ⟨_, (engineStep_trigProbe hp).trans (trigProbeStep_next.2 (.inl ⟨hj, hs, rfl⟩)), ?_⟩
    rw [he]
    rfl
  · have hj0 : s.j.toNat = 0 := by rw [hj]; rfl
    obtain ⟨u, hrun, huj, hupb, hupa, -, hu⟩ := probe_run s.probeW.toNat hp hs (by omega)
    have hbelow : u.pb = true ↔ ∀ k < s.probeW.toNat, ((s.sampleAt k).toNat : Int) < s.trigLevel.toInt := by
      rw [hupb, hpb, Bool.true_and, probeBelow_iff]
      simp only [Nat.zero_add]
    have habove : u.pa = true ↔ ∀ k < s.probeW.toNat, s.trigLevel.toInt ≤ ((s.sampleAt k).toNat : Int) := by
      rw [hupa, hpa, Bool.true_and, probeAbove_iff]
      simp only [Nat.zero_add]
    refine ⟨u, hrun, BitVec.eq_of_toNat_eq (by omega), hbelow, habove, fun hw ⟨hb, ha⟩ => ?_, hu⟩
    exact absurd (hbelow.1 hb 0 hw) (not_lt.2 (habove.1 ha 0 hw))

/-! ### The whole search (42_trigger.md R150) -/

/-- The trigger state of a search that goes on: armed above or not yet. -/
def armed (b : Bool) : TState := if b then .armedAbove else .armedBelow

/-- What a search changes of the state `s` it was accepted in, up to its end. -/
def SearchFrame (s u : State) : Prop :=
  u = { s with
    ph := u.ph, tstate := u.tstate, attempts := u.attempts, j := u.j, pb := u.pb, pa := u.pa, t0 := u.t0, adc := u.adc,
    now := u.now, pacedUs := u.pacedUs }

theorem SearchFrame.update (h : SearchFrame s u) (p : Phase) (ts : TState) (a : BitVec 9) :
    SearchFrame s { u with ph := p, tstate := ts, attempts := a } := by
  unfold SearchFrame at h ⊢
  rw [h]

/-- What a search leaves alone, of what its steps and those after it read. -/
theorem SearchFrame.keeps (h : SearchFrame s u) :
    u.scaleMv = s.scaleMv ∧ u.probeW = s.probeW ∧ u.maxcyc = s.maxcyc ∧ u.trigLevel = s.trigLevel ∧ u.opc = s.opc ∧
      u.n = s.n ∧ u.buf = s.buf := by
  unfold SearchFrame at h
  rw [h]
  exact ⟨rfl, rfl, rfl, rfl, rfl, rfl, rfl⟩

/-- Between two probes of the search accepted in `s`: the readings of the attempts counted are used up. -/
structure Searched (s u : State) : Prop where
  readings : u.adc = s.adc.skip (u.attempts.toNat * s.probeW.toNat)
  frame : SearchFrame s u

theorem Searched.refl (h : s.attempts = 0) : Searched s s := ⟨by simp [h], rfl⟩

/-- A complete probe of the search accepted in `s`, not yet counted (42_trigger.md R154). -/
structure Probed (s v : State) : Prop where
  phase : v.ph = .trigProbe
  complete : v.j = v.probeW
  below : v.pb = probeBelow s.sampleAt s.trigLevel.toInt s.probeW.toNat (v.attempts.toNat * s.probeW.toNat)
  above : v.pa = probeAbove s.sampleAt s.trigLevel.toInt s.probeW.toNat (v.attempts.toNat * s.probeW.toNat)
  readings : v.adc = s.adc.skip ((v.attempts.toNat + 1) * s.probeW.toNat)
  frame : SearchFrame s v

/-- A probe that the budget allows: its start, and its samples. -/
theorem Searched.probe (h : Searched s u) (hs : s.scaleMv ≠ 0) (hp : u.ph = .trigCheck)
    (ha : u.attempts.toNat ≠ s.maxcyc.cycles) :
    ∃ v, engineRun (s.probeW.toNat + 1) u = .next v ∧ Probed s v ∧ v.tstate = u.tstate ∧ v.attempts = u.attempts := by
  obtain ⟨hscale, hwidth, hcyc, hlevel, -⟩ := h.frame.keeps
  have hstart : engineStep u = .next u.startProbe := trigCheck_starts hp (hcyc ▸ ha)
  have hsample (k : Nat) : u.startProbe.sampleAt k = s.sampleAt (u.attempts.toNat * s.probeW.toNat + k) :=
    sampleAt_of_skip (u := u.startProbe) hscale h.readings k
  obtain ⟨v, hrun, hj, hpb, hpa, -, hv⟩ :=
    probe_run s.probeW.toNat (s := u.startProbe) rfl (hscale ▸ hs)
      (show (0#8).toNat + s.probeW.toNat ≤ u.probeW.toNat by simp [hwidth])
  rw [State.startProbe_pb, Bool.true_and, State.startProbe_trigLevel, hlevel, probeBelow_of_shift hsample] at hpb
  rw [State.startProbe_pa, Bool.true_and, State.startProbe_trigLevel, hlevel, probeAbove_of_shift hsample] at hpa
  have hvw : v.probeW = s.probeW := by rw [hv]; exact hwidth
  have hva : v.attempts = u.attempts := by rw [hv]; rfl
  refine ⟨v, (engineRun_succ (by simp [hp]) hstart).trans hrun, ⟨by rw [hv]; rfl, ?_, ?_, ?_, ?_, ?_⟩,
    by rw [hv]; rfl, hva⟩
  · exact BitVec.eq_of_toNat_eq (by rw [hj, hvw]; simp)
  · rw [hpb, hva]
  · rw [hpa, hva]
  · rw [hv, State.startProbe_adc, h.readings, Draws.skip_skip, State.startProbe_attempts, Nat.succ_mul]
  · have hu := h.frame
    unfold SearchFrame at hu ⊢
    rw [hv, hu]
    rfl

/-- The attempt of a complete probe, counted within the budget, whatever the evaluation goes on with. -/
theorem Probed.counted (h : Probed s v) (ha : v.attempts.toNat < s.maxcyc.cycles) (p : Phase) (ts : TState) :
    Searched s { v.countAttempt with ph := p, tstate := ts } ∧ (v.attempts + 1).toNat = v.attempts.toNat + 1 := by
  have hmax := s.maxcyc.cycles_le
  have hsucc : (v.attempts + 1).toNat = v.attempts.toNat + 1 := BitVec.toNat_add_of_lt (by simp; omega)
  have hreadings := h.readings
  rw [← hsucc] at hreadings
  exact ⟨⟨hreadings, h.frame.update p ts _⟩, hsucc⟩

/-- The evaluation of a complete probe (42_trigger.md R155). -/
theorem Probed.step (h : Probed s v) (hev : evaluateProbe v = .next u) : engineRun 1 v = .next u :=
  engineRun_one (by simp [h.phase]) (trigProbe_evaluates h.phase h.complete hev)

/-- From `u`, the search accepted in `s` ends within `k` steps, with this trigger state after so many attempts. -/
def SearchEnds (s u : State) (k : Nat) (result : TState × Nat) : Prop :=
  ∃ j ≤ k, ∃ v, engineRun j u = .next v.afterSearch ∧ Searched s v ∧ (v.tstate, v.attempts.toNat) = result

theorem SearchEnds.after {a k : Nat} {result : TState × Nat} (h : SearchEnds s v k result)
    (hrun : engineRun a u = .next v) : SearchEnds s u (a + k) result := by
  obtain ⟨j, hj, t, ht, hrest⟩ := h
  exact ⟨a + j, Nat.add_le_add_left hj a, t, engineRun_add hrun ht, hrest⟩

/-- The search from one budget test to its end, by induction on what is left of the budget. -/
theorem Searched.completes (hs : s.scaleMv ≠ 0) (left : Nat) : ∀ {u : State} {b : Bool}, Searched s u →
    u.ph = .trigCheck → u.tstate = armed b → u.attempts.toNat + left = s.maxcyc.cycles →
    SearchEnds s u (left * (s.probeW.toNat + 2) + 1)
      (searchResult s.sampleAt s.trigLevel.toInt s.probeW.toNat left b u.attempts.toNat) := by
  induction left with
  | zero =>
    intro u b h hp _ ha
    obtain ⟨-, -, hcyc, -⟩ := h.frame.keeps
    have hend := engineRun_one (by simp [hp]) (trigCheck_gives_up hp (hcyc ▸ ha))
    exact ⟨1, by omega, u.setTState .gaveUp, hend, ⟨h.readings, h.frame.update u.ph .gaveUp u.attempts⟩, rfl⟩
  | succ left ih =>
    intro u b h hp hb ha
    obtain ⟨v, hrun, hv, hvt, hva⟩ := h.probe hs hp (by omega)
    have hcount := hv.counted (by rw [hva]; omega)
    have hbelow := hv.below
    have habove := hv.above
    rw [hva] at hbelow habove
    have hsteps : (left + 1) * (s.probeW.toNat + 2) + 1 =
        s.probeW.toNat + 1 + (1 + (left * (s.probeW.toNat + 2) + 1)) := by
      rw [Nat.succ_mul]; omega
    have hgo (b' : Bool)
        (hev : evaluateProbe v = .next { v.countAttempt with ph := .trigCheck, tstate := armed b' }) :
        SearchEnds s v (1 + (left * (s.probeW.toNat + 2) + 1))
          (searchResult s.sampleAt s.trigLevel.toInt s.probeW.toNat left b' (u.attempts.toNat + 1)) := by
      obtain ⟨hc, hsucc⟩ := hcount .trigCheck (armed b')
      have hend := ih hc rfl rfl (by change (v.attempts + 1).toNat + left = _; rw [hsucc, hva]; omega)
      change SearchEnds s _ _ (searchResult _ _ _ _ _ (v.attempts + 1).toNat) at hend
      rw [hsucc, hva] at hend
      exact hend.after (hv.step hev)
    rw [hsteps]
    refine SearchEnds.after ?_ hrun
    rw [hb] at hvt
    cases b with
    | false =>
      rw [searchResult, ← hbelow]
      exact hgo _ (evaluateProbe_next.2 (.inl ⟨hvt, rfl⟩))
    | true =>
      rw [searchResult, ← habove]
      cases hpa : v.pa with
      | true =>
        obtain ⟨hc, hsucc⟩ := hcount v.ph .fired
        refine ⟨1, by omega, _, hv.step (evaluateProbe_next.2 (.inr (.inl ⟨hvt, hpa, rfl⟩))), hc, ?_⟩
        change (TState.fired, (v.attempts + 1).toNat) = _
        rw [hsucc, hva]
        rfl
      | false =>
        refine hgo true (evaluateProbe_next.2 (.inr (.inr ⟨hvt, hpa, ?_⟩)))
        rw [← hvt]
        rfl

/-- The search of a state as acceptance leaves it (42_trigger.md R152). -/
theorem search_completes (hs : s.scaleMv ≠ 0) (hp : s.ph = .trigCheck) (ht : s.tstate = .armedBelow)
    (ha : s.attempts = 0) :
    SearchEnds s s (s.maxcyc.cycles * (s.probeW.toNat + 2) + 1)
      (searchResult s.sampleAt s.trigLevel.toInt s.probeW.toNat s.maxcyc.cycles false 0) := by
  have h0 : s.attempts.toNat = 0 := by rw [ha]; rfl
  have hend := (Searched.refl ha).completes (b := false) hs s.maxcyc.cycles hp ht (by omega)
  rwa [h0] at hend

end Sys2Proof.Machine
end

section
/-! SUPPORT. `TRIG` and `ACQ` from issue to `finish`, and what the search of 42_trigger.md R150 can find. -/

namespace Sys2Proof.Machine

variable {s : State} {n : Byte}

/-! ### From issue to `finish` (42_trigger.md R150, R160) -/

/-- Settles O12: the search from its acceptance, whose end is `finish`; the time by the readings used up. -/
theorem trigIsTheSearch : Obligations.TrigIsTheSearch := fun s hb hs => by
  obtain ⟨k, hk, v, hrun, hv, hresult⟩ := search_completes (s := acceptTrig s) hs rfl rfl rfl
  have hframe := hv.frame
  obtain ⟨-, -, -, hlevel, hopc, -⟩ := hframe.keeps
  rw [afterSearch_trig hopc] at hrun
  obtain ⟨m, hpaced⟩ := ((Paced.refl s).acceptOf .trig).engineRun rfl hrun
  obtain rfl := hpaced.count hv.readings
  refine ⟨_, v.finish, exec_accepted hb rfl fun _ => hs, engineRun_mono hrun rfl hk, ?_, ?_, hv.readings,
    hpaced.pacedUs_ge, ?_⟩
  · exact (congrArg BitVec.toInt hlevel).trans (levelNow_toInt hs)
  · rw [State.finish_trigLevel, hlevel]
    exact hresult
  · unfold SearchFrame at hframe
    rw [hframe]
    rfl

/-- What is captured is decided by the buffer, the scale and the readings to come. -/
theorem Captured.congr {t : State} {m : Nat} {b : Memory} (h : Captured t m b) (hm : t.scaleMv = s.scaleMv)
    (ha : t.adc = s.adc) (hb : t.buf = s.buf) : Captured s m b where
  wf := h.wf
  stored k hk := (h.stored k hk).trans (by simp only [State.sampleAt, State.reading, quantize_congr hm, ha])
  kept a hk := (h.kept a hk).trans (by rw [hb])

/-- `ACQ n` up to the end of its last step: the search, and the capture of the readings that follow. -/
theorem acq_completes (hb : s.busy = false) (hs : s.scaleMv ≠ 0) (hw : Memory.wf s.buf = true) (hn : n.toNat ≤ 128) :
    exec (.acq n) s = .next (acceptAcq n s) ∧
    ∃ u, engineRun (stepBound (.acq n) s) (acceptAcq n s) = .next u ∧ u.trigLevel = s.levelNow ∧
      (u.tstate, u.attempts.toNat) =
        searchResult s.sampleAt s.levelNow.toInt s.probeW.toNat s.maxcyc.cycles false 0 ∧
      Captured { s with adc := s.adc.skip (u.attempts.toNat * s.probeW.toNat) } n.toNat u.buf ∧
      u.adc = s.adc.skip (u.attempts.toNat * s.probeW.toNat + n.toNat) ∧
      u = { s with
        buf := u.buf, busy := false, done := true, ph := .idle, opc := .acq, n := n, i := n, tstate := u.tstate,
        attempts := u.attempts, trigLevel := u.trigLevel, j := u.j, pb := u.pb, pa := u.pa, t0 := u.t0,
        adc := u.adc, now := u.now, pacedUs := u.pacedUs } := by
  refine ⟨exec_accepted hb (decide_eq_true hn) fun _ => hs, ?_⟩
  obtain ⟨k, hk, v, hrun, hv, hresult⟩ := search_completes (s := acceptAcq n s) hs rfl rfl rfl
  have hframe := hv.frame
  obtain ⟨hvs, -, -, hvl, hopc, hcount, hvb⟩ := hframe.keeps
  have hvn : v.n = n := hcount
  rw [afterSearch_acq hopc] at hrun
  obtain ⟨u, hcapt, hcap, -, -, hu⟩ := capture_completes (s := { v with i := 0, ph := .captLoop }) rfl (hvs ▸ hs)
    (hvb ▸ hw) (hvn ▸ hn) rfl
  have hadc : v.adc = s.adc.skip (v.attempts.toNat * s.probeW.toNat) := hv.readings
  have hua : u.attempts = v.attempts := by rw [hu]
  have hut : u.tstate = v.tstate := by rw [hu]
  have hul : u.trigLevel = v.trigLevel := by rw [hu]
  have huadc : u.adc = v.adc.skip v.n.toNat := by rw [hu]
  have hrun' := engineRun_mono (engineRun_add hrun hcapt) (by rw [hu]) (Nat.add_le_add_right hk _)
  rw [hvn] at hrun' hcap
  refine ⟨u, hrun', hul.trans hvl, by rw [hut, hua]; exact hresult, ?_, ?_, ?_⟩
  · exact hcap.congr hvs (by rw [hua]; exact hadc) hvb
  · rw [huadc, hua, hadc, Draws.skip_skip, hvn]
  · unfold SearchFrame at hframe
    rw [hu, hframe]
    rfl

/-- Settles O13: the cells of the capture, in which samples are numbered from the end of the search. -/
theorem acqSearchesThenCaptures : Obligations.AcqSearchesThenCaptures := fun n s hb hs hw hn => by
  obtain ⟨hacc, u, hrun, hlevel, hresult, hcap, hadc, hu⟩ := acq_completes hb hs hw hn
  have hcells (k : Nat) (hk : k < n.toNat) : u.cell k = s.sampleAt (u.attempts.toNat * s.probeW.toNat + k) := by
    refine (hcap.stored k hk).trans ?_
    simp only [State.sampleAt, State.reading, Draws.skip_skip]
    rfl
  rw [← hlevel] at hresult
  exact ⟨_, u, hacc, hrun, by rw [hlevel, levelNow_toInt hs], hresult, hcells, hcap.kept, hadc, hu⟩

/-! ### `ACQ` as `TRIG` and `CAPT` (42_trigger.md R161) -/

/-- Settles O14: the same search, the one buffer with the first `n` samples after it, and as many paced samples. -/
theorem acqEqualsTrigThenCapt : Obligations.AcqEqualsTrigThenCapt := fun n s hb hs hw hn => by
  obtain ⟨hacc, u, hrun, hlevel, hresult, hcap, hadc, hu⟩ := acq_completes hb hs hw hn
  obtain ⟨t, v, htrig, hsearch, hlevel', hresult', hadc', -, hv⟩ := trigIsTheSearch s hb hs
  obtain ⟨hcapt, w, hcapture, hcap', -, -, hw'⟩ :=
    capt_completes (s := v) (n := n) (by rw [hv]) (by rw [hv]; exact hs) (by rw [hv]; exact hw) hn
  have hleveleq : u.trigLevel = v.trigLevel :=
    BitVec.eq_of_toInt_eq (by rw [hlevel, levelNow_toInt hs, hlevel'])
  rw [← hlevel, hleveleq, ← hresult', Prod.mk.injEq] at hresult
  obtain ⟨hstate, hattempts⟩ := hresult
  have hattemptseq : u.attempts = v.attempts := BitVec.eq_of_toNat_eq hattempts
  have hbuf : u.buf = w.buf := by
    refine hcap.unique (hcap'.congr (by rw [hv]) ?_ (by rw [hv]))
    rw [hadc', hattemptseq]
  have hreadings : u.adc = w.adc := by
    rw [hadc, hw', hadc', Draws.skip_skip, hattemptseq]
  have hacq := (runCommand_of_exec hacc).trans hrun
  have hfirst := (runCommand_of_exec htrig).trans hsearch
  have hsecond := (runCommand_of_exec hcapt).trans hcapture
  obtain ⟨_, hpaced⟩ := (Paced.refl s).runCommand hacc rfl hacq
  obtain ⟨_, hpaced₁⟩ := (Paced.refl s).runCommand (exec_accepted hb rfl fun _ => hs) rfl hfirst
  obtain ⟨_, hpaced₂⟩ := hpaced₁.runCommand hcapt rfl hsecond
  refine ⟨u, w, hacq, ?_, ?_, hbuf, by rw [hu], by rw [hw'], hreadings, hpaced.congr hpaced₂ hreadings⟩
  · rw [runCommands_cons hfirst, runCommands_singleton, hsecond]
  · rw [hu, hw', hv, hbuf, hstate, hattemptseq, hleveleq]
    rfl

/-! ### What a search can find (42_trigger.md R158) -/

section
variable {q : Nat → Byte} {level : Int} {w : Nat}

/-- A search gives up with its budget used, or fires after at least one attempt, armed, or two. -/
theorem searchResult_cases (left : Nat) (b : Bool) (done : Nat) :
    searchResult q level w left b done = (.gaveUp, done + left) ∨
    ∃ a, searchResult q level w left b done = (.fired, a) ∧ (done + if b then 1 else 2) ≤ a ∧ a ≤ done + left := by
  induction left generalizing b done with
  | zero => exact .inl rfl
  | succ left ih =>
    have hgo (b' : Bool) (hle : (if b then 1 else 2) ≤ 1 + if b' then 1 else 2)
        (h : searchResult q level w (left + 1) b done = searchResult q level w left b' (done + 1)) :
        searchResult q level w (left + 1) b done = (.gaveUp, done + (left + 1)) ∨
        ∃ a, searchResult q level w (left + 1) b done = (.fired, a) ∧ (done + if b then 1 else 2) ≤ a ∧
          a ≤ done + (left + 1) := by
      rw [h]
      obtain hg | ⟨a, hf, hlo, hhi⟩ := ih b' (done + 1)
      · exact .inl (by rw [hg]; congr 1; omega)
      · exact .inr ⟨a, hf, by omega, by omega⟩
    cases b with
    | false => exact hgo (probeBelow q level w (done * w)) (by cases probeBelow q level w (done * w) <;> decide) rfl
    | true =>
      cases ha : probeAbove q level w (done * w) with
      | true => exact .inr ⟨done + 1, by rw [searchResult, if_pos ha], le_rfl, by omega⟩
      | false => exact hgo true (by decide) (by rw [searchResult, if_neg (ne_true_of_eq_false ha)])

/-- With no probe wholly below the level the search is never armed. -/
theorem searchResult_of_never_below (left : Nat) (done : Nat)
    (h : ∀ i < done + left, probeBelow q level w (i * w) = false) :
    searchResult q level w left false done = (.gaveUp, done + left) := by
  induction left generalizing done with
  | zero => rfl
  | succ left ih =>
    rw [searchResult, h done (by omega), ih (done + 1) fun i hi => h i (by omega)]
    congr 1
    omega

/-- With no probe wholly at or above the level the search never fires. -/
theorem searchResult_of_never_above (left : Nat) (b : Bool) (done : Nat)
    (h : ∀ i < done + left, probeAbove q level w (i * w) = false) :
    searchResult q level w left b done = (.gaveUp, done + left) := by
  induction left generalizing b done with
  | zero => rfl
  | succ left ih =>
    have hgo (b' : Bool) : searchResult q level w left b' (done + 1) = (.gaveUp, done + (left + 1)) := by
      rw [ih b' (done + 1) fun i hi => h i (by omega)]
      congr 1
      omega
    cases b with
    | false => exact hgo _
    | true => rw [searchResult, h done (by omega)]; exact hgo true

end

/-- A whole `TRIG` (42_trigger.md R150, R151). -/
theorem trig_run (hb : s.busy = false) (hs : s.scaleMv ≠ 0) :
    ∃ u, runCommand .trig s = .next u ∧ u.ph = .idle ∧ u.err = s.err ∧
      (u.tstate, u.attempts.toNat) =
        searchResult s.sampleAt s.levelNow.toInt s.probeW.toNat s.maxcyc.cycles false 0 ∧
      u.adc = s.adc.skip (u.attempts.toNat * s.probeW.toNat) := by
  obtain ⟨t, u, hacc, hrun, hlevel, hresult, hadc, -, hu⟩ := trigIsTheSearch s hb hs
  rw [hlevel, ← levelNow_toInt hs] at hresult
  exact ⟨u, (runCommand_of_exec hacc).trans hrun, by rw [hu], by rw [hu], hresult, hadc⟩

/-- Settles O22: the two ends of a search, with the budget and the attempts of each. -/
theorem finishedSearchOutcome : Obligations.FinishedSearchOutcome := fun s hb hs => by
  obtain ⟨u, hrun, hp, -, hresult, hadc⟩ := trig_run hb hs
  have hdrawn : u.adc.drawn = s.adc.drawn + u.attempts.toNat * s.probeW.toNat := by rw [hadc, Draws.skip_drawn]
  have hends := searchResult_cases (q := s.sampleAt) (level := s.levelNow.toInt) (w := s.probeW.toNat)
    s.maxcyc.cycles false 0
  simp only [← hresult, Prod.mk.injEq, Nat.zero_add] at hends
  obtain ⟨hstate, hattempts⟩ | ⟨a, ⟨hstate, rfl⟩, hlo, hhi⟩ := hends
  · exact ⟨u, hrun, hp, .inr hstate, fun _ => hattempts, fun h => (by cases hstate.symm.trans h), hdrawn⟩
  · exact ⟨u, hrun, hp, .inl hstate, fun h => (by cases hstate.symm.trans h), fun _ => ⟨hlo, hhi⟩, hdrawn⟩

/-- `TRIG` gives up where every probe of the budget begins at or above the level, or every one below it. -/
theorem trig_gives_up (hb : s.busy = false) (hs : s.scaleMv ≠ 0) (hw : 1 ≤ s.probeW.toNat)
    (h : (∀ i < s.maxcyc.cycles, s.levelNow.toInt ≤ ((s.sampleAt (i * s.probeW.toNat)).toNat : Int)) ∨
      ∀ i < s.maxcyc.cycles, ((s.sampleAt (i * s.probeW.toNat)).toNat : Int) < s.levelNow.toInt) :
    ∃ u, runCommand .trig s = .next u ∧ u.tstate = .gaveUp ∧ u.attempts.toNat = s.maxcyc.cycles ∧
      u.adc = s.adc.skip (s.maxcyc.cycles * s.probeW.toNat) ∧ u.err = s.err := by
  obtain ⟨u, hrun, -, herr, hresult, hadc⟩ := trig_run hb hs
  have hgave : (u.tstate, u.attempts.toNat) = (TState.gaveUp, 0 + s.maxcyc.cycles) := by
    rw [hresult]
    obtain h | h := h
    · exact searchResult_of_never_below _ _ fun i hi => probeBelow_eq_false hw (h i (by omega))
    · exact searchResult_of_never_above _ _ _ fun i hi => probeAbove_eq_false hw (h i (by omega))
  rw [Prod.mk.injEq, Nat.zero_add] at hgave
  obtain ⟨hstate, hattempts⟩ := hgave
  exact ⟨u, hrun, hstate, hattempts, hattempts ▸ hadc, herr⟩

/-- Settles O23: every sample is at or above a level of 0 or less, and below one of 256 or more. -/
theorem unreachableLevelGivesUp : Obligations.UnreachableLevelGivesUp := fun s hb hs hw hlevel => by
  rw [← levelNow_toInt hs] at hlevel
  refine trig_gives_up hb hs hw (hlevel.imp (fun h i _ => ?_) fun h i _ => ?_)
  · exact h.trans (Int.natCast_nonneg _)
  · have hlt := (s.sampleAt (i * s.probeW.toNat)).isLt
    omega

/-- Settles O24: the one value of the samples is at or above the level, or below it. -/
theorem constantInputNeverFires : Obligations.ConstantInputNeverFires := fun s hb hs hw hconst => by
  have hfirst (i : Nat) (hi : i < s.maxcyc.cycles) : s.sampleAt (i * s.probeW.toNat) = s.sampleAt 0 :=
    hconst _ (Nat.mul_lt_mul_of_pos_right hi hw)
  obtain ⟨u, hrun, hstate, hattempts, -, -⟩ := trig_gives_up hb hs hw
    ((le_or_gt s.levelNow.toInt ((s.sampleAt 0).toNat : Int)).imp (fun h i hi => hfirst i hi ▸ h)
      fun h i hi => hfirst i hi ▸ h)
  exact ⟨u, hrun, hstate, hattempts⟩

/-! ### The step input (42_trigger.md R159) -/

/-- Settles O25: the first probe arms the search and the second fires it; cell 0 holds the reading after them. -/
theorem stepInputFiresInTwoAttempts : Obligations.StepInputFiresInTwoAttempts := fun n s hb hs hw h1 hn hprobe => by
  intro level hbelow habove hcell
  obtain ⟨t, u, hacc, hrun, hlevel, hresult, hcells, -, -, -⟩ := acqSearchesThenCaptures n s hb hs hw hn
  have hwidth : s.probeW.toNat = 1 := by rw [hprobe]; rfl
  have hcyc : s.maxcyc.cycles = (s.maxcyc.cycles - 2) + 1 + 1 := by cases s.maxcyc <;> rfl
  have hfirst : probeBelow s.sampleAt level 1 0 = true := probeBelow_iff.2 fun k hk => by
    obtain rfl : k = 0 := by omega
    exact hbelow
  have hsecond : probeAbove s.sampleAt level 1 1 = true := probeAbove_iff.2 fun k hk => by
    obtain rfl : k = 0 := by omega
    exact habove
  have hfired : (u.tstate, u.attempts.toNat) = (TState.fired, 2) := by
    rw [hresult, hlevel, hwidth, hcyc, searchResult, Nat.zero_mul, hfirst, searchResult, if_pos hsecond]
  rw [Prod.mk.injEq] at hfired
  obtain ⟨hstate, hattempts⟩ := hfired
  refine ⟨u, (runCommand_of_exec hacc).trans hrun, hstate, BitVec.eq_of_toNat_eq hattempts, hlevel, ?_⟩
  rw [hcells 0 h1, hattempts, hwidth]
  exact hcell

end Sys2Proof.Machine
end

section
/-! SUPPORT. The transitions of the trigger state (42_trigger.md R157): acceptance, the exhausted budget, the evaluation
of a complete probe, and no other. -/

namespace Sys2Proof.Machine

variable {s t : State}

@[simp] theorem afterSearch_tstate : s.afterSearch.tstate = s.tstate := by
  obtain ⟨b, d, p, k, e⟩ := afterSearch_frame (s := s)
  rw [e]

@[simp] theorem afterSearch_attempts : s.afterSearch.attempts = s.attempts := by
  obtain ⟨b, d, p, k, e⟩ := afterSearch_frame (s := s)
  rw [e]

@[simp] theorem afterSearch_err : s.afterSearch.err = s.err := by
  obtain ⟨b, d, p, k, e⟩ := afterSearch_frame (s := s)
  rw [e]

/-! ### The transitions that there are -/

/-- The budget is used up (42_trigger.md R153). -/
theorem engineStep_exhausted (hp : s.ph = .trigCheck) (ha : s.attempts.toNat = s.maxcyc.cycles)
    (hst : engineStep s = .next t) : t.tstate = .gaveUp ∧ t.attempts = s.attempts ∧ t.err = s.err := by
  obtain ⟨-, rfl⟩ | ⟨hne, -⟩ := trigCheckStep_next.1 (engineStep_trigCheck hp ▸ hst)
  · exact ⟨afterSearch_tstate, afterSearch_attempts, afterSearch_err⟩
  · exact absurd ha hne

/-- A complete probe counts an attempt, and is tested for the trigger state that the search is in
(42_trigger.md R155). -/
theorem engineStep_evaluated (h : s.Inv) (hp : s.ph = .trigProbe) (hj : s.j = s.probeW)
    (hst : engineStep s = .next t) :
    t.attempts.toNat = s.attempts.toNat + 1 ∧ t.err = s.err ∧
      (s.tstate = .armedBelow ∧ t.tstate = (if s.pb then .armedAbove else .armedBelow) ∨
        s.tstate = .armedAbove ∧ t.tstate = if s.pa then .fired else .armedAbove) := by
  have hsucc := h.attempts_succ hp
  obtain ⟨hlt, -⟩ | ⟨-, hev⟩ := trigProbeStep_next.1 (engineStep_trigProbe hp ▸ hst)
  · rw [hj] at hlt
    exact absurd hlt (BitVec.lt_irrefl _)
  · obtain ⟨ht, rfl⟩ | ⟨ht, hpa, rfl⟩ | ⟨ht, hpa, rfl⟩ := evaluateProbe_next.1 hev
    · exact ⟨hsucc, rfl, .inl ⟨ht, rfl⟩⟩
    · rw [afterSearch_attempts, afterSearch_err, afterSearch_tstate, hpa]
      exact ⟨hsucc, rfl, .inr ⟨ht, rfl⟩⟩
    · rw [hpa]
      exact ⟨hsucc, rfl, .inr ⟨ht, ht⟩⟩

/-! ### No other -/

/-- Every other step of the engine keeps the trigger state and `ATTEMPTS`. -/
theorem engineStep_keeps_trigger (hst : engineStep s = .next t)
    (hcheck : ¬(s.ph = .trigCheck ∧ s.attempts.toNat = s.maxcyc.cycles))
    (hprobe : ¬(s.ph = .trigProbe ∧ s.j = s.probeW)) : t.tstate = s.tstate ∧ t.attempts = s.attempts := by
  obtain ⟨t0, now, us, e⟩ := pacedSample_frame (s := s)
  cases engineStep_effect hst with
  | gaveUp hp ha => exact absurd ⟨hp, ha⟩ hcheck
  | evaluatedBelow hp hj | fired hp hj | evaluatedAbove hp hj => exact absurd ⟨hp, hj⟩ hprobe
  | probeSample | captured => rw [e]; exact ⟨rfl, rfl⟩
  | idle | startProbe | captureOver | put | rolled | cleared => exact ⟨rfl, rfl⟩

/-- Of the host's accesses only the acceptance of `TRIG` or `ACQ` touches the trigger state or `ATTEMPTS`. -/
theorem AccessEffect.triggerState (he : AccessEffect s t) :
    (t.tstate = s.tstate ∧ t.attempts = s.attempts) ∨
      (s.busy = false ∧ t.busy = true ∧ (t.opc = .trig ∨ t.opc = .acq) ∧ t.tstate = .armedBelow ∧ t.attempts = 0) := by
  cases he with
  | accepted i hb =>
    cases i with
    | trig => exact .inr ⟨hb, rfl, .inl rfl, rfl, rfl⟩
    | acq => exact .inr ⟨hb, rfl, .inr rfl, rfl, rfl⟩
    | capt | put | roll | clr => exact .inl ⟨rfl, rfl⟩
  | _ => exact .inl ⟨rfl, rfl⟩

/-- Settles O21: acceptance, the two events of the engine, and by exclusion every other step. -/
theorem triggerTransitionsComplete : Obligations.TriggerTransitionsComplete := by
  refine ⟨fun i s t hi hex hb ht => ?_, fun s t h hst => ⟨fun hp ha => engineStep_exhausted hp ha hst, fun hp hj => ?_⟩,
    fun s t h hn hst => ?_⟩
  · obtain ⟨e, he⟩ | ⟨-, -, -, he⟩ := exec_cases hex
    · cases he
      cases hb.symm.trans ht
    · cases he
      obtain rfl | ⟨n, rfl⟩ := hi
      · exact ⟨rfl, rfl⟩
      · exact ⟨rfl, rfl⟩
  · obtain ⟨hattempts, -, ⟨ht, ht'⟩ | ⟨ht, ht'⟩⟩ := engineStep_evaluated h hp hj hst
    · exact ⟨hattempts, fun _ => ht', fun hx => by cases ht.symm.trans hx⟩
    · exact ⟨hattempts, fun hx => (by cases ht.symm.trans hx), fun _ => ht'⟩
  · intro complete
    obtain ⟨d, hagent⟩ := step_cases hst
    have hd := h.hostSide d s.unspecDraws s.reads s.script
    obtain ⟨hm, hh⟩ | ⟨-, -, he⟩ := hagent
    · obtain ha | ⟨u, r, l, b, rfl⟩ := hostStep_cases_noReset hd.resetHeld (fun e => hn ⟨hm, e⟩) hh
      · exact ha.triggerState.imp_right .inl
      · exact .inl ⟨rfl, rfl⟩
    · by_cases hcheck : s.ph = .trigCheck ∧ s.attempts.toNat = s.maxcyc.cycles
      · obtain ⟨hp, ha⟩ := hcheck
        obtain ⟨ht, hta, herr⟩ := engineStep_exhausted (s := { s with turns := d }) hp ha he
        exact .inr (.inr (.inl ⟨hp, h.searchArmed (.inl hp), ht, hta, hta ▸ ha, herr⟩))
      by_cases hprobe : s.ph = .trigProbe ∧ s.j = s.probeW
      · obtain ⟨hp, hj⟩ := hprobe
        obtain ⟨hattempts, herr, hmove⟩ := engineStep_evaluated hd hp hj he
        have hcomplete : complete := ⟨hp, hj, hattempts, herr⟩
        refine .inr (.inr (.inr ?_))
        obtain ⟨ht, ht'⟩ | ⟨ht, ht'⟩ := hmove
        · cases hpb : s.pb with
          | true => exact .inl ⟨hcomplete, ht, rfl, ht'.trans (if_pos hpb)⟩
          | false => exact .inr (.inl ⟨hcomplete, ht, rfl, ht'.trans (if_neg (ne_true_of_eq_false hpb))⟩)
        · cases hpa : s.pa with
          | true => exact .inr (.inr (.inl ⟨hcomplete, ht, rfl, ht'.trans (if_pos hpa)⟩))
          | false => exact .inr (.inr (.inr ⟨hcomplete, ht, rfl, ht'.trans (if_neg (ne_true_of_eq_false hpa))⟩))
      · exact .inl (engineStep_keeps_trigger (s := { s with turns := d }) he hcheck hprobe)

end Sys2Proof.Machine
end

section
/-! SUPPORT. `ROLL` and `CLR` from issue to `finish`, and sequences of `ROLL`s, by one view of the buffer: its cells
and, after them, the samples still to come. -/

namespace Sys2Proof.Machine

variable {s : State} {k : Nat}

/-! ### Outside the buffer -/

/-- Outside the buffer's window every canonical buffer reads the same (10_state.md R37). -/
theorem Memory.read_outside {m m' : Memory} {a : Nat} (h : Memory.wf m = true) (h' : Memory.wf m' = true)
    (ha : ¬(cellOffset 0 ≤ a ∧ a ≤ cellOffset 127)) : Memory.read m a = Memory.read m' a := by
  simp only [cellOffset, bufBase] at ha
  by_cases hlow : a < bufBase
  · rw [Memory.read_below h hlow, Memory.read_below h' hlow]
  · have hhigh : bufEnd ≤ a := by simp only [bufBase, bufEnd] at hlow ⊢; omega
    rw [Memory.read_above h hhigh, Memory.read_above h' hhigh]

/-! ### `ROLL` (43_buffer.md R180, R181) -/

/-- What `ROLL` leaves of an idle state. -/
def State.afterRoll (s : State) : State :=
  { s.shiftAppend (s.sampleAt 0) with
    busy := false, done := true, ph := .idle, opc := .roll, adc := s.adc.skip 1 }

@[simp] theorem afterRoll_scaleMv : s.afterRoll.scaleMv = s.scaleMv := rfl

@[simp] theorem afterRoll_adc : s.afterRoll.adc = s.adc.skip 1 := rfl

theorem exec_roll (hb : s.busy = false) (hs : s.scaleMv ≠ 0) : exec .roll s = .next (s.accept .roll .rollOne) :=
  exec_accepted hb rfl fun _ => hs

/-- The one engine step of `ROLL`. -/
theorem roll_run (hs : s.scaleMv ≠ 0) : engineRun 1 (s.accept .roll .rollOne) = .next s.afterRoll := by
  refine engineRun_one (by simp) ?_
  rw [engineStep_rollOne rfl, rollOneStep_next]
  exact ⟨hs, rfl⟩

theorem runCommand_roll (hb : s.busy = false) (hs : s.scaleMv ≠ 0) : runCommand .roll s = .next s.afterRoll :=
  (runCommand_of_exec (exec_roll hb hs)).trans (roll_run hs)

theorem wf_afterRoll (hw : Memory.wf s.buf = true) : Memory.wf s.afterRoll.buf = true := Memory.wf_shiftAppend hw

theorem cell_afterRoll (hw : Memory.wf s.buf = true) :
    s.afterRoll.cell k = if k = 127 then s.sampleAt 0 else s.cell (k + 1) := State.cell_shiftAppend hw

/-- Settles O10: acceptance, and the one engine step. -/
theorem rollShiftsAndAppends : Obligations.RollShiftsAndAppends := fun s hb hs hw => by
  refine ⟨_, _, exec_roll hb hs, roll_run hs, fun k hk => ?_, ?_, fun a ha => ?_, rfl⟩
  · rw [cell_afterRoll hw, if_neg (by omega)]
  · rw [cell_afterRoll hw, if_pos rfl]
  · exact Memory.read_outside (wf_afterRoll hw) hw ha

/-! ### `ROLL` after `ROLL` (43_buffer.md R182) -/

/-- The buffer's cells and, after them, the samples still to come: what `ROLL` moves the buffer along. -/
def State.tape (s : State) (k : Nat) : Byte := if k < 128 then s.cell k else s.sampleAt (k - 128)

theorem tape_of_lt (hk : k < 128) : s.tape k = s.cell k := if_pos hk

theorem tape_of_ge (hk : 128 ≤ k) : s.tape k = s.sampleAt (k - 128) := if_neg (by omega)

/-- `ROLL` moves the buffer one place along the tape. -/
theorem tape_afterRoll (hw : Memory.wf s.buf = true) : s.afterRoll.tape k = s.tape (k + 1) := by
  have hsample (j : Nat) : s.afterRoll.sampleAt j = s.sampleAt (1 + j) :=
    sampleAt_of_skip afterRoll_scaleMv afterRoll_adc j
  obtain hlt | rfl | hgt := Nat.lt_trichotomy k 127
  · rw [tape_of_lt (by omega), tape_of_lt (by omega), cell_afterRoll hw, if_neg (by omega)]
  · rw [tape_of_lt (by omega), tape_of_ge (by omega), cell_afterRoll hw, if_pos rfl]
  · rw [tape_of_ge (by omega), tape_of_ge (by omega), hsample]
    exact congrArg s.sampleAt (by omega)

/-- `m` `ROLL`s move the buffer `m` places along the tape. -/
theorem rolls_run (m : Nat) (hb : s.busy = false) (hs : s.scaleMv ≠ 0) (hw : Memory.wf s.buf = true) :
    ∃ u, runCommands (List.replicate m .roll) s = .next u ∧ u.adc = s.adc.skip m ∧
      ∀ k < 128, u.cell k = s.tape (k + m) := by
  induction m generalizing s with
  | zero => exact ⟨s, rfl, rfl, fun k hk => (tape_of_lt hk).symm⟩
  | succ m ih =>
    obtain ⟨u, hrun, hadc, hcells⟩ := ih (s := s.afterRoll) rfl hs (wf_afterRoll hw)
    refine ⟨u, ?_, ?_, fun k hk => ?_⟩
    · rw [List.replicate_succ, runCommands_cons (runCommand_roll hb hs), hrun]
    · rw [hadc, afterRoll_adc, Draws.skip_skip, Nat.add_comm]
    · rw [hcells k hk, tape_afterRoll hw, Nat.add_assoc]

/-- Settles O16: `m` places along the tape from cell `k` is an old cell or a reading. -/
theorem rollsAreFifo : Obligations.RollsAreFifo := fun m _ hb hs hw => rolls_run m hb hs hw

/-! ### `CLR` (43_buffer.md R183 to R185) -/

/-- What `CLR` leaves of an idle state. -/
def State.afterClr (s : State) : State :=
  { s.clearBuf with busy := false, done := true, ph := .idle, opc := .clr }

theorem exec_clr (hb : s.busy = false) : exec .clr s = .next (s.accept .clr .clrAll) :=
  exec_accepted hb rfl fun h => nomatch h

/-- The one engine step of `CLR`. -/
theorem clr_run : engineRun 1 (s.accept .clr .clrAll) = .next s.afterClr := by
  refine engineRun_one (by simp) ?_
  rw [engineStep_clrAll rfl, clrAllStep_next]
  rfl

theorem runCommand_clr (hb : s.busy = false) : runCommand .clr s = .next s.afterClr :=
  (runCommand_of_exec (exec_clr hb)).trans clr_run

theorem cell_afterClr : s.afterClr.cell k = 0x00#8 := State.cell_clearBuf (s := s)

theorem sampleAt_afterClr : s.afterClr.sampleAt k = s.sampleAt k := rfl

/-- Settles O11: acceptance, and the one engine step. -/
theorem clrZeroesAllCells : Obligations.ClrZeroesAllCells := fun _ hb hw =>
  ⟨_, _, exec_clr hb, clr_run, fun _ _ => cell_afterClr, fun _ ha => Memory.read_outside Memory.wf_nil hw ha, rfl⟩

/-- Settles O17: after `CLR` the tape is 128 zeros, then the readings; the `ROLL`s move the buffer along it. -/
theorem clrThenRollsFromTheRight : Obligations.ClrThenRollsFromTheRight := fun m s hb hs _ hm => by
  obtain ⟨u, hrun, -, hcells⟩ := rolls_run (s := s.afterClr) m rfl hs Memory.wf_nil
  refine ⟨u, (runCommands_cons (runCommand_clr hb)).trans hrun, fun k hk => ?_, fun j h1 hj => ?_⟩
  · rw [hcells k (by omega), tape_of_lt (by omega), cell_afterClr]
  · rw [hcells _ (by omega), tape_of_ge (by omega), sampleAt_afterClr]
    exact congrArg s.sampleAt (by omega)

end Sys2Proof.Machine
end

section
/-! SUPPORT. The host's pure rules (44_host_sequences.md): an equation per branch of each, and the display throttle's
counter between two redraws. -/

namespace Sys2Proof.Machine.Scheduler

variable {t : TimebaseSetting} {r k len idx : Nat} {c change : Int}

/-! ### Mode selection (44_host_sequences.md R191) -/

theorem selectMode_rolling (h : t.intervalMicroseconds = 0 ∧ 1000 ≤ labelMs t) : selectMode t = .rolling := if_pos h

theorem selectMode_asyncChunked (h : ¬(t.intervalMicroseconds = 0 ∧ 1000 ≤ labelMs t)) (ha : 101 ≤ labelMs t) :
    selectMode t = .asyncChunked := (if_neg h).trans (if_pos ha)

/-- Below the async threshold the label is below the rolling threshold too, whatever the interval. -/
theorem selectMode_blocking (h : labelMs t < 101) : selectMode t = .blocking := by
  have hr : ¬(t.intervalMicroseconds = 0 ∧ 1000 ≤ labelMs t) := fun hr => by omega
  exact (if_neg hr).trans (if_neg (Nat.not_le.mpr h))

/-- Settles O57: the three branches, at the label in milliseconds. -/
theorem modeSelectionRule : Obligations.ModeSelectionRule := by
  intro t ms
  have hms : ms = labelMs t := by
    obtain ⟨us, v, unit⟩ := t
    cases unit with
    | ms => rfl
    | s => exact Nat.mul_comm 1000 v
  rw [hms]
  exact ⟨selectMode_rolling, selectMode_asyncChunked, selectMode_blocking⟩

/-! ### The display throttle (44_host_sequences.md R197) -/

theorem throttleTick_of_pos (h : 0 < c) : throttleTick r c = (c - 1, false) := if_neg (by omega)

theorem throttleTick_of_nonpos (h : c ≤ 0) : throttleTick r c = ((r : Int), true) := if_pos (by omega)

/-- Until it is used up, the counter loses one a tick. -/
theorem throttle_counter (h : k ≤ r) : (fun c => (throttleTick r c).1)^[k] (r : Int) = r - k := by
  induction k with
  | zero => exact (Int.sub_zero _).symm
  | succ k ih =>
    have hpos : 0 < (r : Int) - k := by omega
    rw [Function.iterate_succ_apply', ih (by omega), throttleTick_of_pos hpos]
    push_cast
    omega

/-- Settles O58: after `k` ticks the counter is `r - k`, positive for `k < r` and 0 at `k = r`. -/
theorem redrawEveryRPlusOneTicks : Obligations.RedrawEveryRPlusOneTicks := by
  intro r after
  have hafter (k : Nat) (hk : k ≤ r) : after k = r - k := throttle_counter hk
  refine ⟨fun k hk => ?_, ?_⟩
  · rw [hafter k (by omega), throttleTick_of_pos (by omega)]
  · exact throttleTick_of_nonpos (by rw [hafter r le_rfl, Int.sub_self])

/-! ### Index bounds (44_host_sequences.md R201) -/

theorem adjustIndex_of_inside (h : 0 ≤ (idx : Int) + change ∧ (idx : Int) + change < len) :
    adjustIndex len idx change = ((idx : Int) + change).toNat := if_pos h

theorem adjustIndex_of_outside (h : ¬(0 ≤ (idx : Int) + change ∧ (idx : Int) + change < len)) :
    adjustIndex len idx change = idx := if_neg h

theorem adjustIndex_lt (h : idx < len) : adjustIndex len idx change < len := by
  by_cases hin : 0 ≤ (idx : Int) + change ∧ (idx : Int) + change < len
  · rw [adjustIndex_of_inside hin]
    omega
  · rwa [adjustIndex_of_outside hin]

/-- Settles O59: the new index is in the table, and each of the two branches. -/
theorem indexAdjustmentStaysInTable : Obligations.IndexAdjustmentStaysInTable := fun _ _ _ hidx => by
  refine ⟨adjustIndex_lt hidx, fun hout => adjustIndex_of_outside (by omega), fun h0 hlt => ?_⟩
  rw [adjustIndex_of_inside ⟨h0, hlt⟩, Int.toNat_of_nonneg h0]

end Sys2Proof.Machine.Scheduler
end

section
/-! SUPPORT. Progress: the block has no state of the invariant without a next step (60_exceptions.md R233,
70_reset_and_hazards.md R264). -/

namespace Sys2Proof.Machine

variable {s t : State}

/-- A complete probe of an armed search can be evaluated (42_trigger.md R155). -/
theorem evaluateProbe_answers (ht : s.tstate = .armedBelow ∨ s.tstate = .armedAbove) :
    ∃ t, evaluateProbe s = .next t := by
  obtain ht | ht := ht
  · exact ⟨_, evaluateProbe_next.2 (.inl ⟨ht, rfl⟩)⟩
  · cases ha : s.pa with
    | true => exact ⟨_, evaluateProbe_next.2 (.inr (.inl ⟨ht, ha, rfl⟩))⟩
    | false => exact ⟨_, evaluateProbe_next.2 (.inr (.inr ⟨ht, ha, rfl⟩))⟩

/-- In a phase that samples there is a scale (30_encoding.md R93). -/
theorem State.Inv.scaled (h : s.Inv) {p : Phase} (hp : s.ph = p) (hi : p ≠ .idle := by decide)
    (hc : p ≠ .clrAll := by decide) : s.scaleMv ≠ 0 :=
  h.configured (hp ▸ hi) (hp ▸ hc)

/-- The engine is never stuck: its scale is there, its indices are in range, its search is armed. -/
theorem engineStep_answers (h : s.Inv) : ∃ t, engineStep s = .next t := by
  cases hp : s.ph with
  | idle => exact ⟨s, engineStep_idle hp⟩
  | trigCheck =>
    rw [engineStep_trigCheck hp]
    by_cases ha : s.attempts.toNat = s.maxcyc.cycles
    · exact ⟨_, trigCheckStep_next.2 (.inl ⟨ha, rfl⟩)⟩
    · exact ⟨_, trigCheckStep_next.2 (.inr ⟨ha, rfl⟩)⟩
  | trigProbe =>
    rw [engineStep_trigProbe hp]
    obtain hj | hj := Nat.lt_or_eq_of_le (h.probeIndex hp).1
    · exact ⟨_, trigProbeStep_next.2 (.inl ⟨hj, h.scaled hp, rfl⟩)⟩
    · obtain ⟨t, ht⟩ := evaluateProbe_answers (h.searchArmed (.inr hp))
      exact ⟨t, trigProbeStep_next.2 (.inr ⟨BitVec.eq_of_toNat_eq hj, ht⟩)⟩
  | captLoop =>
    rw [engineStep_captLoop hp]
    by_cases hi : s.i < s.n
    · have hcell : s.i.toNat < 128 := Nat.lt_of_lt_of_le hi (h.captRange hp).2
      exact ⟨_, captLoopStep_next.2 (.inl ⟨hi, hcell, h.scaled hp, rfl⟩)⟩
    · exact ⟨_, captLoopStep_next.2 (.inr ⟨hi, rfl⟩)⟩
  | putOne => exact ⟨_, engineStep_putOne hp ▸ putOneStep_next.2 ⟨h.scaled hp, rfl⟩⟩
  | rollOne => exact ⟨_, engineStep_rollOne hp ▸ rollOneStep_next.2 ⟨h.scaled hp, rfl⟩⟩
  | clrAll => exact ⟨_, engineStep_clrAll hp ▸ clrAllStep_next.2 rfl⟩

/-- No action of the outside world stops the block, whatever the state. -/
theorem hostStep_answers (s : State) : ∃ t, hostStep s = .next t := by
  unfold hostStep
  split
  · exact ⟨_, rfl⟩
  · next a _ _ =>
    obtain ⟨t, ht⟩ := performAccess_answers a s.popStmt
    exact ⟨_, congrArg (mapNext State.holdReset) ht⟩
  · exact ⟨_, rfl⟩
  · exact ⟨_, rfl⟩

/-- Whoever moves finds the state with at most a turn used up (20_memory.md R71). -/
theorem nextMover_frame (s : State) : ∃ d, (nextMover s).2 = { s with turns := d } := by
  unfold nextMover
  split
  · exact ⟨s.turns, rfl⟩
  · split
    · exact ⟨s.turns, rfl⟩
    · exact ⟨_, rfl⟩

/-- Settles O52: the agent that moves has a step, as a turn used up does not touch the invariant. -/
theorem invariantNeverStuck : Obligations.InvariantNeverStuck := fun s h => by
  obtain ⟨d, hd⟩ := nextMover_frame s
  have hm : (nextMover s).2.Inv := hd ▸ h.hostSide d s.unspecDraws s.reads s.script
  unfold step
  split
  · exact hostStep_answers _
  · next u hu => exact engineStep_answers (by rw [hu] at hm; exact hm)

end Sys2Proof.Machine
end

section
/-! SUPPORT. Refusals and the interrupt line: what an access does to `ERR`, to `DONE` and to `IE`. -/

namespace Sys2Proof.Machine

variable {s t : State} {a : Access}

/-! ### Refusals (60_exceptions.md R221, R229) -/

/-- An access is refused with one bit of `ERR`, or sets none. -/
theorem AccessEffect.refusedOrClean (he : AccessEffect s t) :
    (∃ e : ErrBit, t = { s with err := s.err ||| e.bit, reads := t.reads }) ∨
      ∀ b < 5, t.err.getLsbD b = true → s.err.getLsbD b = true := by
  cases he with
  | refusedWrite e => exact .inl ⟨e, rfl⟩
  | refusedRead r => exact .inl ⟨.addr, rfl⟩
  | accepted i => rw [acceptOf_err]; exact .inr fun _ _ hb => hb
  | cleared m =>
    refine .inr fun b _ hb => ?_
    rw [State.clearErr_err, BitVec.getLsbD_and, Bool.and_eq_true] at hb
    exact hb.1
  | read | ack | control | scale | attenuation | interval | trigger | probe | nothing =>
    exact .inr fun _ _ hb => hb

/-- Settles O40: every access answers, and its effect is a refusal or sets no bit. -/
theorem refusalSetsOneBitOrNone : Obligations.RefusalSetsOneBitOrNone := fun a s => by
  obtain ⟨t, ht⟩ := performAccess_answers a s
  exact ⟨t, ht, (performAccess_effect ht).refusedOrClean⟩

/-! ### Accesses and the interrupt line (60_exceptions.md R230) -/

/-- All that an access can do to `DONE` and `IE`. -/
inductive LineEffect (a : Access) (s t : State) : Prop where
  /-- Both stay. -/
  | kept (hd : t.done = s.done) (hi : t.ie = s.ie)
  /-- `DONE` is acknowledged (10_state.md R29). -/
  | acknowledged (v : Word) (ha : a = .write 0x04#8 .four v) (hv : v.getLsbD 1 = true) (hd : t.done = false)
  /-- A command is accepted (10_state.md R45). -/
  | accepted (hs : s.busy = false) (ht : t.busy = true) (hd : t.done = false)
  /-- `CTRL` is written (10_state.md R30). -/
  | control (v : Word) (ha : a = .write 0x08#8 .four v) (hd : t.done = s.done)

/-- Every legal write names a register by its offset, at full width (20_memory.md R64, R68). -/
theorem register_of_legalWrite {o : Byte} {w : Width} {v : Word} (h : (Access.write o w v).isError = false) :
    w = .four ∧ ∃ r : Reg, o = r.offset := by
  obtain ⟨hw, h4, hle⟩ := legalWrite_iff.1 h
  have hwritable : ∀ k < 9, ∃ r ∈ [Reg.cmd, .status, .ctrl, .err, .scaleMv, .atten, .intervalUs, .trigUv, .probeW],
      r.offset.toNat = 4 * k := by decide
  obtain ⟨r, -, hr⟩ := hwritable (o.toNat / 4) (by omega)
  exact ⟨hw, r, BitVec.eq_of_toNat_eq (by omega)⟩

/-- A write is refused, or writes the register whose offset it names (20_memory.md R64, R68). -/
theorem performAccess_write_cases {o : Byte} {w : Width} {v : Word} (h : performAccess (.write o w v) s = .next t) :
    t = s.raise .addr ∨ ∃ r : Reg, o = r.offset ∧ w = .four ∧ writeReg r v s = .next t := by
  cases hlegal : (Access.write o w v).isError with
  | true => cases (performAccess_write_error hlegal).symm.trans h; exact .inl rfl
  | false =>
    obtain ⟨rfl, r, rfl⟩ := register_of_legalWrite hlegal
    rw [performAccess, hlegal, regAt_offset] at h
    exact .inr ⟨r, rfl, rfl, h⟩

/-- A configuration write keeps `DONE` and `IE` where its store does. -/
theorem writeConfig_line {legal : Bool} {store : State → State} (hd : (store s).done = s.done)
    (hi : (store s).ie = s.ie) : LineEffect a s (s.writeConfig legal store) := by
  obtain ⟨-, -, e⟩ | ⟨c, e⟩ := writeConfig_cases (s := s) (legal := legal) (store := store)
  · rw [e]; exact .kept hd hi
  · rw [e]; exact .kept rfl rfl

/-- What the write of each register does to the line. -/
theorem writeReg_line {r : Reg} {v : Word} (h : writeReg r v s = .next t) :
    LineEffect (.write r.offset .four v) s t := by
  cases r with
  | cmd =>
    obtain ⟨e, he⟩ | ⟨hb, i, he⟩ := writeCmd_cases v s <;> cases he.symm.trans h
    · exact .kept rfl rfl
    · exact .accepted hb (acceptOf_busy i s) (acceptOf_done i s)
  | status =>
    cases h
    unfold writeStatus
    split
    · next hv => exact .acknowledged v rfl hv rfl
    · exact .kept rfl rfl
  | ctrl =>
    cases h
    unfold writeCtrl
    split
    · exact .control v rfl rfl
    · exact .kept rfl rfl
  | err | attempts | trigLevel | maxcyc => cases h; exact .kept rfl rfl
  | scaleMv | atten | intervalUs | trigUv | probeW => cases h; exact writeConfig_line rfl rfl

/-- Of the bus accesses only writes of `STATUS`, `CMD` and `CTRL` touch the line. -/
theorem performAccess_line (h : performAccess a s = .next t) : LineEffect a s t := by
  cases a with
  | read o w =>
    cases hlegal : (Access.read o w).isError with
    | true => cases (performAccess_read_error hlegal).symm.trans h; exact .kept rfl rfl
    | false =>
      obtain ⟨u, hu⟩ := readValue_frame (s := s) o w
      rw [performAccess, hlegal] at h
      cases h
      rw [hu]
      exact .kept rfl rfl
  | write o w v =>
    obtain rfl | ⟨r, rfl, rfl, hw⟩ := performAccess_write_cases h
    · exact .kept rfl rfl
    · exact writeReg_line hw

/-! ### Steps and the interrupt line -/

/-- With the reset input released the outside world's access is the bus's. -/
theorem hostStep_access {rest : List HostStmt} (hs : s.script = .access a :: rest) (hr : s.resetAsserted = false) :
    hostStep s = performAccess a s.popStmt := by
  obtain ⟨v, hv⟩ := performAccess_answers a s.popStmt
  have hr' : v.resetAsserted = false := (performAccess_effect hv).environment.2.1.trans hr
  rw [hostStep, hs]
  show mapNext State.holdReset (performAccess a s.popStmt) = _
  rw [hv, mapNext, State.holdReset_released v hr']

/-- Of the outside world's statements, but for the assertion of the reset input, only accesses touch the line. -/
theorem hostStep_line (hr : s.ResetHeld) (hn : s.script.head? ≠ some (.resetInput true))
    (hst : hostStep s = .next t) :
    (t.done = s.done ∧ t.ie = s.ie) ∨ ∃ a, s.script.head? = some (.access a) ∧ LineEffect a s.popStmt t := by
  obtain ⟨-, rfl⟩ | ⟨a, rest, hs, ha, -⟩ | ⟨a, rest, u, r, -, -, rfl⟩ | ⟨rest, u, r, -, rfl | rfl⟩ |
    ⟨level, rest, hs, rfl⟩ := hostStep_cases_held hr hst
  · exact .inl ⟨rfl, rfl⟩
  · exact .inr ⟨a, congrArg List.head? hs, performAccess_line (hostStep_access hs ha ▸ hst)⟩
  · exact .inl ⟨rfl, rfl⟩
  · exact .inl ⟨rfl, rfl⟩
  · exact .inl ⟨rfl, rfl⟩
  · have hl : level = false := eq_false_of_ne_true fun e => hn (by rw [hs, e]; rfl)
    have hr' : s.popStmt.ResetHeld := fun ha => congrArg State.popStmt (hr ha)
    rw [driveReset_held hr' (.inl hl)]
    exact .inl ⟨rfl, rfl⟩

theorem irq_eq_true_iff : s.irq = true ↔ s.done = true ∧ s.ie = true := Bool.and_eq_true_iff

/-- The line does not rise over a clear `DONE`. -/
theorem irq_of_not_done (hd : s.done = false) : s.irq = false := by rw [State.irq, hd, Bool.false_and]

/-- Where `DONE` stays, a rise of the line is an enable and a fall of it a disable. -/
theorem irq_change_of_done_kept (hd : t.done = s.done) :
    (s.irq = false → t.irq = true → s.done = true ∧ s.ie = false ∧ t.ie = true) ∧
    (s.irq = true → t.irq = false → t.ie = false) := by
  simp only [State.irq, hd]
  cases s.done <;> simp +contextual

/-- Settles O44: the engine can only set `DONE`, by `finish`, and the accesses that touch the line are the three stated. -/
theorem irqRisesAndFallsAsStated : Obligations.IrqRisesAndFallsAsStated := by
  refine ⟨fun s => irq_eq_true_iff, fun s t h hn hst => ?_⟩
  have ht := h.step hst
  have hsame {p q : Prop} (e : t.irq = s.irq) :
      (s.irq = false → t.irq = true → p) ∧ (s.irq = true → t.irq = false → q) := by rw [e]; simp +contextual
  have hclear {p : Prop} (hd : t.done = false) (h1 : t.irq = true) : p := by rw [irq_of_not_done hd] at h1; cases h1
  obtain ⟨d, ⟨hm, hh⟩ | ⟨-, hp, he⟩⟩ := step_cases hst
  · have hd := h.hostSide d s.unspecDraws s.reads s.script
    obtain ⟨hdone, hie⟩ | ⟨a, ha, hline⟩ := hostStep_line hd.resetHeld (fun e => hn ⟨hm, e⟩) hh
    · exact hsame (congrArg₂ and hdone hie)
    cases hline with
    | kept hdone hie => exact hsame (congrArg₂ and hdone hie)
    | acknowledged v e hv hdone => exact ⟨fun _ => hclear hdone, fun _ _ => .inl ⟨hdone, v, hv, e ▸ ha⟩⟩
    | accepted hb hb' hdone => exact ⟨fun _ => hclear hdone, fun _ _ => .inr (.inl ⟨hb, hb', hdone⟩)⟩
    | control v e hdone =>
      obtain ⟨hrise, hfall⟩ := irq_change_of_done_kept (s := s) hdone
      refine ⟨fun h0 h1 => ?_, fun h1 h0 => .inr (.inr ⟨hfall h1 h0, v, e ▸ ha⟩)⟩
      obtain ⟨hs, hoff, hon⟩ := hrise h0 h1
      exact .inr ⟨hs, hoff, hon, v, e ▸ ha⟩
  · have hb : s.busy = true := h.busyIff.2 hp
    obtain ⟨_, _, _, _, _, _, _, _, _, _, _, _, _, _, e⟩ := engineStep_frame he
    have hie : t.ie = s.ie := by rw [e]
    refine ⟨fun _ h1 => ?_, fun h1 _ => ?_⟩
    · obtain ⟨hdone, hon⟩ := irq_eq_true_iff.1 h1
      exact .inl ⟨hb, ht.doneIdle hdone, hdone, hie ▸ hon⟩
    · cases hb.symm.trans (h.doneIdle (irq_eq_true_iff.1 h1).1)

end Sys2Proof.Machine
end

section
/-! SUPPORT. How many steps the engine still takes: a bound that every engine step lowers, and that acceptance keeps
within the bound of the command's kind (70_reset_and_hazards.md R264). -/

namespace Sys2Proof.Machine

variable {s t : State}

/-! ### The bound (70_reset_and_hazards.md R264) -/

/-- The engine steps that a search has to go before a check of its budget with at most `k` probes left: the probes, the
check that gives up, and the capture of an `ACQ`. -/
def State.searchSteps (s : State) (k : Nat) : Nat :=
  k * (s.probeW.toNat + 2) + 1 + if s.opc = .acq then s.n.toNat + 1 else 0

/-- The attempts that the budget still has (42_trigger.md R153). -/
def State.attemptsLeft (s : State) : Nat := s.maxcyc.cycles - s.attempts.toNat

/-- The most engine steps from here to `finish`, phase by phase. -/
def State.stepsLeft (s : State) : Nat :=
  match s.ph with
  | .idle => 0
  | .trigCheck => s.searchSteps s.attemptsLeft
  | .trigProbe => s.probeW.toNat - s.j.toNat + 1 + s.searchSteps (s.attemptsLeft - 1)
  | .captLoop => s.n.toNat - s.i.toNat + 1
  | .putOne | .rollOne | .clrAll => 1

/-- A probe is its start, its samples and its evaluation (42_trigger.md R153 to R155). -/
theorem searchSteps_of_pos (s : State) {k : Nat} (h : 0 < k) :
    s.searchSteps k = s.probeW.toNat + 2 + s.searchSteps (k - 1) := by
  obtain ⟨m, rfl⟩ := Nat.exists_eq_add_one.2 h
  simp only [State.searchSteps, Nat.succ_mul, Nat.add_sub_cancel]
  omega

theorem searchSteps_pos (s : State) (k : Nat) : 0 < s.searchSteps k := by
  unfold State.searchSteps; omega

theorem stepsLeft_idle (hp : s.ph = .idle) : s.stepsLeft = 0 := by rw [State.stepsLeft, hp]

theorem stepsLeft_trigCheck (hp : s.ph = .trigCheck) : s.stepsLeft = s.searchSteps s.attemptsLeft := by
  rw [State.stepsLeft, hp]

theorem stepsLeft_trigProbe (hp : s.ph = .trigProbe) :
    s.stepsLeft = s.probeW.toNat - s.j.toNat + 1 + s.searchSteps (s.attemptsLeft - 1) := by
  rw [State.stepsLeft, hp]

theorem stepsLeft_captLoop (hp : s.ph = .captLoop) : s.stepsLeft = s.n.toNat - s.i.toNat + 1 := by
  rw [State.stepsLeft, hp]

/-- A busy engine has a step left. -/
theorem stepsLeft_pos (hp : s.ph ≠ .idle) : 0 < s.stepsLeft := by
  cases hq : s.ph with
  | idle => exact absurd hq hp
  | trigCheck => rw [stepsLeft_trigCheck hq]; exact searchSteps_pos ..
  | trigProbe => rw [stepsLeft_trigProbe hq]; omega
  | captLoop => rw [stepsLeft_captLoop hq]; omega
  | putOne | rollOne | clrAll => simp [State.stepsLeft, hq]

/-! ### Every engine step lowers it -/

/-- The end of a search leaves the capture, where there is one (42_trigger.md R156). -/
theorem stepsLeft_afterSearch_lt (s : State) (k : Nat) : s.afterSearch.stepsLeft < s.searchSteps k := by
  unfold State.afterSearch State.searchSteps
  split
  · next ho => rw [stepsLeft_captLoop rfl]; simp only [BitVec.ofNat_eq_ofNat, BitVec.toNat_ofNat]; omega
  · rw [stepsLeft_idle rfl]; omega

/-- A counted attempt is one less in the budget (42_trigger.md R155). -/
theorem State.Inv.attemptsLeft_countAttempt (h : s.Inv) (hp : s.ph = .trigProbe) :
    s.countAttempt.attemptsLeft = s.attemptsLeft - 1 := by
  have hsucc : s.countAttempt.attempts.toNat = s.attempts.toNat + 1 := h.attempts_succ hp
  rw [State.attemptsLeft, hsucc]
  exact Nat.sub_add_eq ..

/-- Every step of a busy engine lowers the bound of the steps left (70_reset_and_hazards.md R264). -/
theorem engineStep_stepsLeft_lt (h : s.Inv) (hp : s.ph ≠ .idle) (hst : engineStep s = .next t) :
    t.stepsLeft < s.stepsLeft := by
  obtain ⟨t0, now, us, e⟩ := pacedSample_frame (s := s)
  cases engineStep_effect hst with
  | idle hq => exact absurd hq hp
  | gaveUp hq => rw [stepsLeft_trigCheck hq]; exact stepsLeft_afterSearch_lt (s.setTState .gaveUp) _
  | startProbe hq ha =>
    have hnext : s.startProbe.stepsLeft = s.probeW.toNat + 1 + s.searchSteps (s.attemptsLeft - 1) := rfl
    have hleft : 0 < s.attemptsLeft := Nat.sub_pos_of_lt (Nat.lt_of_le_of_ne h.attemptsLe ha)
    rw [hnext, stepsLeft_trigCheck hq, searchSteps_of_pos s hleft]
    omega
  | probeSample hq hj =>
    have hj1 : (s.j + 1).toNat = s.j.toNat + 1 := by bv_omega
    have hnext : (State.foldProbe (s.quantize (s.reading 0)) (pacedSample s).2).stepsLeft =
        s.probeW.toNat - (s.j + 1).toNat + 1 + s.searchSteps (s.attemptsLeft - 1) := by
      rw [e]; exact stepsLeft_trigProbe hq
    rw [BitVec.lt_def] at hj
    rw [hnext, stepsLeft_trigProbe hq]
    omega
  | evaluatedBelow hq | evaluatedAbove hq =>
    rw [stepsLeft_trigProbe hq, ← h.attemptsLeft_countAttempt hq]
    exact Nat.lt_add_of_pos_left (Nat.succ_pos _)
  | fired hq =>
    have hend := stepsLeft_afterSearch_lt (s.countAttempt.setTState .fired) (s.attemptsLeft - 1)
    rw [stepsLeft_trigProbe hq]
    exact hend.trans_le (Nat.le_add_left _ _)
  | captured hq hi =>
    have hi1 : (s.i + 1).toNat = s.i.toNat + 1 := by bv_omega
    have hnext : (storeCaptured (s.quantize (s.reading 0)) (pacedSample s).2).stepsLeft =
        s.n.toNat - (s.i + 1).toNat + 1 := by
      rw [e]; exact stepsLeft_captLoop hq
    rw [BitVec.lt_def] at hi
    rw [hnext, stepsLeft_captLoop hq]
    omega
  | captureOver | put | rolled | cleared => exact stepsLeft_pos hp

/-! ### Runs of the engine end -/

/-- As many engine steps as the bound says reach `finish`. -/
theorem engineRun_finishes {k : Nat} (h : s.Inv) (hp : s.ph ≠ .idle) (hk : s.stepsLeft ≤ k) :
    ∃ u, engineRun k s = .next u ∧ u.ph = .idle ∧ u.busy = false ∧ u.done = true := by
  induction k generalizing s with
  | zero => exact absurd hk (Nat.not_le_of_gt (stepsLeft_pos hp))
  | succ k ih =>
    obtain ⟨t, hst⟩ := engineStep_answers h
    have ht := h.engineStep hst
    have hlt := engineStep_stepsLeft_lt h hp hst
    rw [engineRun_succ hp hst]
    by_cases hi : t.ph = .idle
    · have hd := engineStep_done hp hst hi
      exact ⟨t, engineRun_idle k hi, hi, ht.doneIdle hd, hd⟩
    · exact ih ht hi (by omega)

/-- Acceptance leaves no more steps than the bound of the command's kind. -/
theorem stepsLeft_acceptOf (i : Instr) (s : State) : (acceptOf i s).stepsLeft ≤ stepBound i s := by
  cases i with
  | capt n => exact Nat.le_refl (n.toNat + 1)
  | acq n => exact Nat.le_refl (s.maxcyc.cycles * (s.probeW.toNat + 2) + 1 + (n.toNat + 1))
  | trig => exact Nat.le_refl (s.maxcyc.cycles * (s.probeW.toNat + 2) + 1)
  | put | roll | clr => exact Nat.le_refl 1

/-- No busy state has more steps left than a whole search and a whole capture. -/
theorem State.Inv.stepsLeft_le (h : s.Inv) :
    s.stepsLeft ≤ s.maxcyc.cycles * (s.probeW.toNat + 2) + 1 + 129 := by
  have hwhole (hs : s.ph.searching) :
      s.searchSteps s.attemptsLeft ≤ s.maxcyc.cycles * (s.probeW.toNat + 2) + 1 + 129 := by
    have hbudget : s.attemptsLeft * (s.probeW.toNat + 2) ≤ s.maxcyc.cycles * (s.probeW.toNat + 2) :=
      Nat.mul_le_mul_right _ (Nat.sub_le _ _)
    unfold State.searchSteps
    obtain ho | ⟨ho, hn⟩ := h.searchOwner hs
    · simp only [ho, reduceCtorEq, if_false]; omega
    · rw [if_pos ho]; omega
  cases hp : s.ph with
  | idle => rw [stepsLeft_idle hp]; omega
  | trigCheck =>
    rw [stepsLeft_trigCheck hp]
    exact hwhole (.inl hp)
  | trigProbe =>
    have hleft : 0 < s.attemptsLeft := Nat.sub_pos_of_lt (h.probeIndex hp).2
    have hprobe := searchSteps_of_pos s hleft
    have hle := hwhole (.inr hp)
    rw [stepsLeft_trigProbe hp]
    omega
  | captLoop =>
    have hn := (h.captRange hp).2
    rw [stepsLeft_captLoop hp]
    omega
  | putOne | rollOne | clrAll => simp [State.stepsLeft, hp]

/-- A block with a scale is not held at reset (10_state.md R48, 70_reset_and_hazards.md R250). -/
theorem State.Inv.released_of_scaled (h : s.Inv) (hs : s.scaleMv ≠ 0) : s.resetAsserted = false :=
  eq_false_of_ne_true fun ha => hs (by rw [← h.resetHeld ha]; rfl)

/-- Settles O55: a sampling command is accepted into the invariant, `CLR` takes its one step wherever it is accepted, and
the bound of steps left does the rest. -/
theorem commandsFinishWithinBound : Obligations.CommandsFinishWithinBound := by
  refine ⟨fun i s t h he hb ht => ?_, fun s h hp => engineRun_finishes h hp h.stepsLeft_le⟩
  obtain ⟨e, heq⟩ | ⟨-, hw, hs, heq⟩ := exec_cases he <;> cases heq
  · cases hb.symm.trans ht
  by_cases hi : samples i = true
  · have hacc := h.acceptOf hb (h.released_of_scaled (hs hi)) hw hs
    exact engineRun_finishes hacc (hacc.busyIff.1 ht) (stepsLeft_acceptOf i s)
  · cases i with
    | clr => exact ⟨s.afterClr, clr_run, rfl, rfl, rfl⟩
    | capt | put | roll | trig | acq => exact absurd rfl hi

end Sys2Proof.Machine
end

section
/-! SUPPORT. The reset input, asserted, held and released: a step from the reset state, and what an access to it answers
(70_reset_and_hazards.md R250). -/

namespace Sys2Proof.Machine

variable {s t : State}

/-! ### What an access records -/

/-- A write of a register is no read: nothing is recorded and no UNSPECIFIED value drawn. -/
theorem writeReg_record {r : Reg} {v : Word} (h : writeReg r v s = .next t) :
    t.reads = s.reads ∧ t.unspecDraws = s.unspecDraws := by
  have hconfig {legal : Bool} {store : State → State} (hr : (store s).reads = s.reads)
      (hu : (store s).unspecDraws = s.unspecDraws) :
      (s.writeConfig legal store).reads = s.reads ∧ (s.writeConfig legal store).unspecDraws = s.unspecDraws := by
    obtain ⟨-, -, e⟩ | ⟨c, e⟩ := writeConfig_cases (s := s) (legal := legal) (store := store) <;> rw [e]
    · exact ⟨hr, hu⟩
    · exact ⟨rfl, rfl⟩
  cases r with
  | cmd =>
    obtain ⟨e, he⟩ | ⟨-, i, he⟩ := writeCmd_cases v s <;> cases he.symm.trans h
    · exact ⟨rfl, rfl⟩
    · cases i <;> exact ⟨rfl, rfl⟩
  | status => cases h; unfold writeStatus; split <;> exact ⟨rfl, rfl⟩
  | ctrl => cases h; unfold writeCtrl; split <;> exact ⟨rfl, rfl⟩
  | err | attempts | trigLevel | maxcyc => cases h; exact ⟨rfl, rfl⟩
  | scaleMv | atten | intervalUs | trigUv | probeW => cases h; exact hconfig rfl rfl

theorem performAccess_write_record {o : Byte} {w : Width} {v : Word} (h : performAccess (.write o w v) s = .next t) :
    t.reads = s.reads ∧ t.unspecDraws = s.unspecDraws := by
  obtain rfl | ⟨r, -, -, hw⟩ := performAccess_write_cases h
  · exact ⟨rfl, rfl⟩
  · exact writeReg_record hw

/-- An idle block answers a read exactly, whatever statements are still to come (20_memory.md R74). -/
theorem readValue_idle (o : Byte) (w : Width) (hb : s.busy = false) :
    ∃ v, readValue o w s = (v, s) ∧ readValue o w s.popStmt = (v, s.popStmt) := by
  have hb' : s.popStmt.busy = false := hb
  unfold readValue
  split
  · next r _ =>
    have hv : s.popStmt.regValue r = s.regValue r := by cases r <;> rfl
    exact ⟨_, readReg_idle hb, hv ▸ readReg_idle hb'⟩
  · cases w with
    | one => exact ⟨_, readBuf_one_idle _ hb, readBuf_one_idle _ hb'⟩
    | two => exact ⟨_, rfl, rfl⟩
    | four => exact ⟨_, readBuf_four_idle _ hb, readBuf_four_idle _ hb'⟩

/-- An access to an idle block draws no UNSPECIFIED value, and records the same whatever statements are still to come. -/
theorem performAccess_idle_record (a : Access) (hb : s.busy = false) :
    ∃ u v, performAccess a s = .next u ∧ performAccess a s.popStmt = .next v ∧
      v.reads = u.reads ∧ v.unspecDraws = s.unspecDraws := by
  cases a with
  | read o w =>
    cases hlegal : (Access.read o w).isError with
    | true => exact ⟨_, _, performAccess_read_error hlegal, performAccess_read_error hlegal, rfl, rfl⟩
    | false =>
      obtain ⟨v, hv, hv'⟩ := readValue_idle o w hb
      simp only [performAccess, hlegal, hv, hv']
      exact ⟨_, _, rfl, rfl, rfl, rfl⟩
  | write o w v =>
    obtain ⟨u, hu⟩ := performAccess_answers (.write o w v) s
    obtain ⟨u', hu'⟩ := performAccess_answers (.write o w v) s.popStmt
    obtain ⟨hreads, -⟩ := performAccess_write_record hu
    obtain ⟨hreads', hdraws'⟩ := performAccess_write_record hu'
    exact ⟨u, u', hu, hu', hreads'.trans hreads.symm, hdraws'⟩

/-! ### The reset input's events, and steps while it is asserted -/

theorem hostStep_resetInput {level : Bool} {rest : List HostStmt} (hs : s.script = .resetInput level :: rest) :
    hostStep s = .next (s.popStmt.driveReset level) := by
  rw [hostStep, hs]

/-- From the reset state, held, a step of the outside world changes only the model's record of it and the input's level. -/
theorem hostStep_held (hr : s.ResetHeld) (ha : s.resetAsserted = true) (hst : hostStep s = .next t) :
    ∃ u r l b, t = { s with unspecDraws := u, reads := r, script := l, resetAsserted := b } := by
  have hr' : s.popStmt.ResetHeld := fun h => congrArg State.popStmt (hr h)
  obtain ⟨-, rfl⟩ | ⟨_, _, -, h0, -⟩ | ⟨_, _, u, r, -, -, rfl⟩ | ⟨_, u, r, -, rfl | rfl⟩ | ⟨level, _, -, rfl⟩ :=
    hostStep_cases_held hr hst
  · exact ⟨_, _, _, _, rfl⟩
  · cases ha.symm.trans h0
  · exact ⟨_, _, _, _, rfl⟩
  · exact ⟨_, _, _, _, rfl⟩
  · exact ⟨_, _, _, _, rfl⟩
  · exact ⟨_, _, _, _, driveReset_held hr' (.inr ha)⟩

/-- An access to the reset state, held, answers and leaves only the record of its answer. -/
theorem hostStep_held_access {a : Access} {rest : List HostStmt} (hr : s.ResetHeld) (ha : s.resetAsserted = true)
    (hb : s.busy = false) (hs : s.script = .access a :: rest) :
    ∃ t u, hostStep s = .next t ∧ t = { s with script := rest, reads := t.reads } ∧
      performAccess a s = .next u ∧ t.reads = u.reads := by
  obtain ⟨u, v, hu, hv, hreads, hdraws⟩ := performAccess_idle_record a hb
  have heff := performAccess_effect hv
  have hpop : s.popStmt = { s with script := rest } := by rw [State.popStmt, hs]; rfl
  have hheld : v.holdReset = { s with script := rest, reads := v.reads } := by
    rw [State.holdReset_asserted v (heff.environment.2.1.trans ha),
      heff.held (congrArg State.popStmt (hr ha)), hdraws, hpop]
  refine ⟨v.holdReset, u, ?_, ?_, hu, (State.holdReset_reads v).trans hreads⟩
  · rw [hostStep, hs]; exact congrArg (mapNext State.holdReset) hv
  · rw [State.holdReset_reads]; exact hheld

/-- Settles O49: both events of an asserted input leave `resetBlock`, whose fields are the reset values; a step from it
changes none of them, and the engine, idle, has none. -/
theorem resetInputAbandonsCommand : Obligations.ResetInputAbandonsCommand := by
  unfold Obligations.ResetInputAbandonsCommand
  intro resetValues
  have hreset (s : State) (level : Bool) : resetValues { s.resetBlock with resetAsserted := level } :=
    ⟨rfl, rfl, rfl, rfl, rfl, rfl, rfl, rfl, rfl, rfl, rfl, rfl, fun _ _ => rfl, rfl, rfl⟩
  have hpop {s : State} {x : HostStmt} {rest : List HostStmt} (hs : s.script = x :: rest) : s.popStmt.script = rest := by
    rw [State.popStmt_script, hs, List.tail_cons]
  refine ⟨fun s rest hs => ?_, fun s rest ha hs => ?_, fun s rest ha hs => ?_, fun s hr ha => ?_⟩
  · exact ⟨_, hostStep_resetInput hs, hreset s.popStmt true, rfl, rfl, hpop hs⟩
  · rw [hostStep_resetInput hs, State.driveReset_release s.popStmt ha]
    exact ⟨_, rfl, hreset s.popStmt false, rfl, rfl, hpop hs⟩
  · rw [hostStep_resetInput hs, State.driveReset_released s.popStmt ha, State.popStmt, hs, List.tail_cons]
  · have hvalues : resetValues s := by
      have h := hreset s s.resetAsserted
      rwa [hr ha] at h
    have hb : s.busy = false := by rw [← hr ha]; rfl
    have hp : s.ph = .idle := by rw [← hr ha]; rfl
    obtain ⟨t, hst⟩ := hostStep_answers s
    have hstep : step s = hostStep s := step_host (nextMover_idle hp)
    rw [hstep]
    obtain ⟨u, r, l, b, e⟩ := hostStep_held hr ha hst
    refine ⟨hvalues, nextMover_idle hp, ⟨t, hst, ?_, ?_⟩, fun a rest hs => hostStep_held_access hr ha hb hs⟩
    · rw [e]; exact hvalues
    · rw [e]

end Sys2Proof.Machine
end

section
/-! SUPPORT. The machine's own steps: what a step of a busy block keeps, that the engine's turn comes, and that a run is
over when the list is (70_reset_and_hazards.md R264, R265). -/

namespace Sys2Proof.Machine

variable {s t u : State}

/-! ### What the outside world does to a busy block -/

/-- No access to a busy block touches the command in progress (10_state.md R27, R45). -/
theorem AccessEffect.busy_stepsLeft (he : AccessEffect s t) (hb : s.busy = true) :
    t.busy = true ∧ t.stepsLeft = s.stepsLeft := by
  have hidle {p : Prop} (h : s.busy = false) : p := by rw [hb] at h; cases h
  cases he with
  | accepted _ h | scale _ h | attenuation _ h | interval _ h | trigger _ h | probe _ h => exact hidle h
  | read | refusedWrite | refusedRead | ack | cleared | control | nothing => exact ⟨hb, rfl⟩

/-- The command in progress goes on, but where the reset input is asserted. -/
theorem hostStep_busy (hr : s.ResetHeld) (hb : s.busy = true) (hn : s.script.head? ≠ some (.resetInput true))
    (hst : hostStep s = .next t) : t.busy = true ∧ t.stepsLeft = s.stepsLeft := by
  obtain he | ⟨u, r, l, b, rfl⟩ := hostStep_cases_noReset hr hn hst
  · exact he.busy_stepsLeft hb
  · exact ⟨hb, rfl⟩

/-- The outside world uses up no turn, and its first statement, but for a poll of `WAIT` that goes on. -/
theorem hostStep_turns_script (hst : hostStep s = .next t) :
    t.turns = s.turns ∧ (t.script = s.script.tail ∨
      t.script = s.script ∧ (s.script = [] ∨ ∃ rest, s.script = .wait :: rest)) := by
  obtain ⟨hs, rfl⟩ | ⟨a, rest, v, -, -, hv, rfl⟩ | ⟨rest, hs, rfl⟩ | ⟨level, rest, -, rfl⟩ := hostStep_cases hst
  · exact ⟨rfl, .inr ⟨rfl, .inl hs⟩⟩
  · obtain ⟨-, -, -, -, hturns, hscript, -⟩ := hv.environment
    rw [State.holdReset_turns, State.holdReset_script]
    exact ⟨hturns, .inl hscript⟩
  · rw [State.holdReset_turns, State.holdReset_script]
    obtain ⟨u, r, e | e⟩ := waitStep_frame (s := s) <;> rw [e]
    · exact ⟨rfl, .inr ⟨rfl, .inr ⟨rest, hs⟩⟩⟩
    · exact ⟨rfl, .inl rfl⟩
  · rw [State.driveReset_turns, State.driveReset_script]
    exact ⟨rfl, .inl rfl⟩

theorem hostStep_script_suffix (hst : hostStep s = .next t) : t.script <:+ s.script := by
  obtain ⟨-, e | ⟨e, -⟩⟩ := hostStep_turns_script hst
  · exact e ▸ List.tail_suffix _
  · exact e ▸ List.suffix_rfl

/-! ### A step of a busy block -/

/-- What the machine keeps up to the end of a command: the invariant, statements that only go off the list's head, a `WAIT`
there that stays, and `DONE` where the command finishes and is not abandoned. -/
structure Pursues (s t : State) : Prop where
  inv : t.Inv
  script : t.script <:+ s.script
  wait : ∀ rest, s.script = .wait :: rest → t.script = s.script
  finishes : s.busy = true → HostStmt.resetInput true ∉ s.script → t.busy = false → t.done = true

theorem Pursues.refl (h : s.Inv) : Pursues s s :=
  ⟨h, List.suffix_rfl, fun _ _ => rfl, fun hb _ hn => by rw [hb] at hn; cases hn⟩

/-- Up to the end of the same command. -/
theorem Pursues.trans (h : Pursues s t) (hb : t.busy = true) (h' : Pursues t u) : Pursues s u where
  inv := h'.inv
  script := h'.script.trans h.script
  wait rest hs := (h'.wait rest ((h.wait rest hs).trans hs)).trans (h.wait rest hs)
  finishes _ hn := h'.finishes hb fun hm => hn (h.script.subset hm)

/-- The turns are no part of it. -/
theorem Pursues.of_turns {d : Draws Agent} (h : Pursues { s with turns := d } t) : Pursues s t :=
  ⟨h.inv, h.script, h.wait, h.finishes⟩

/-- The two agents that a step of a busy block can be of (20_memory.md R71). -/
theorem step_busy_cases (hp : s.ph ≠ .idle) :
    (∃ d, step s = engineStep { s with turns := d }) ∨ (s.turn = .host ∧ step s = hostStep s.afterTurn) := by
  obtain ⟨hempty, hengine, -⟩ := engineMovesOnItsTurn s
  by_cases hs : s.script = []
  · exact .inl ⟨s.turns, hempty hp hs⟩
  · cases ht : s.turn with
    | engine => exact .inl ⟨_, hengine hp hs ht⟩
    | host => exact .inr ⟨rfl, step_host (nextMover_hostTurn hp hs ht)⟩

/-- The engine's step of a busy block lowers the bound of the steps left. -/
theorem engineStep_pursues (h : s.Inv) (hp : s.ph ≠ .idle) (hst : engineStep s = .next t) :
    Pursues s t ∧ t.stepsLeft < s.stepsLeft := by
  have ht := h.engineStep hst
  obtain ⟨_, _, _, _, _, _, _, _, _, _, _, _, _, _, e⟩ := engineStep_frame hst
  have hscript : t.script = s.script := by rw [e]
  exact ⟨⟨ht, hscript ▸ List.suffix_rfl, fun _ _ => hscript,
      fun _ _ hn => engineStep_done hp hst (ht.idle_of_not_busy hn)⟩, engineStep_stepsLeft_lt h hp hst⟩

/-- The outside world's step of a busy block abandons the command or leaves it where it is. -/
theorem hostStep_pursues (h : s.Inv) (hb : s.busy = true) (hst : hostStep s = .next t) :
    Pursues s t ∧ (t.busy = false ∨ t.busy = true ∧ t.stepsLeft = s.stepsLeft) := by
  have hscript := hostStep_script_suffix hst
  have hwait (rest : List HostStmt) (hs : s.script = .wait :: rest) : t.script = s.script := by
    obtain ⟨v, -, hv, -, -, hkeep, -⟩ := waitEndsWhenNotBusy s rest h.resetHeld hs
    cases hv.symm.trans hst
    exact hkeep hb
  by_cases hn : s.script.head? = some (.resetInput true)
  · obtain ⟨rest, hs⟩ := List.head?_eq_some_iff.1 hn
    cases (hostStep_resetInput hs).symm.trans hst
    exact ⟨⟨h.hostStep hst, hscript, hwait, fun _ hm => absurd (hs ▸ List.mem_cons_self) hm⟩, .inl rfl⟩
  · have hkept := hostStep_busy h.resetHeld hb hn hst
    exact ⟨⟨h.hostStep hst, hscript, hwait, fun _ _ hi => by rw [hkept.1] at hi; cases hi⟩, .inr hkept⟩

/-- A step of a busy block ends its command, lowers the bound of the steps left, or uses up a turn of the host. -/
theorem step_pursues (h : s.Inv) (hb : s.busy = true) (hst : step s = .next t) :
    Pursues s t ∧ ((t.busy = false ∨ t.stepsLeft < s.stepsLeft) ∨
      (s.turn = .host ∧ t.turns = s.turns.skip 1 ∧ t.busy = true ∧ t.stepsLeft = s.stepsLeft)) := by
  have hd (d : Draws Agent) : State.Inv { s with turns := d } := h.hostSide d s.unspecDraws s.reads s.script
  obtain ⟨d, he⟩ | ⟨hturn, he⟩ := step_busy_cases (h.busyIff.1 hb) <;> rw [he] at hst
  · obtain ⟨hpur, hlt⟩ := engineStep_pursues (hd d) (h.busyIff.1 hb) hst
    exact ⟨hpur.of_turns, .inl (.inr hlt)⟩
  · obtain ⟨hpur, hkept⟩ := hostStep_pursues (hd (s.turns.skip 1)) hb hst
    obtain ⟨hturns, -⟩ := hostStep_turns_script hst
    exact ⟨hpur.of_turns, hkept.imp .inl fun ⟨hb', hleft⟩ => ⟨hturn, hturns, hb', hleft⟩⟩

/-! ### The command in progress ends (70_reset_and_hazards.md R264) -/

theorem stepRun_one (hst : step s = .next t) : stepRun 1 s = .next t := stepRun_succ hst

/-- Where the engine's turn comes after `k` others, the bound of the steps left is lowered or the command is over. -/
theorem engine_gets_its_turn {k : Nat} (hk : State.turn { s with turns := s.turns.skip k } = .engine) (h : s.Inv)
    (hb : s.busy = true) :
    ∃ m t, stepRun m s = .next t ∧ Pursues s t ∧ (t.busy = false ∨ t.stepsLeft < s.stepsLeft) := by
  induction k generalizing s with
  | zero =>
    obtain ⟨t, hst⟩ := invariantNeverStuck s h
    obtain ⟨hpur, hlower | ⟨hturn, -⟩⟩ := step_pursues h hb hst
    · exact ⟨1, t, stepRun_one hst, hpur, hlower⟩
    · cases hturn.symm.trans hk
  | succ k ih =>
    obtain ⟨t, hst⟩ := invariantNeverStuck s h
    obtain ⟨hpur, hlower | ⟨-, hturns, hb', hleft⟩⟩ := step_pursues h hb hst
    · exact ⟨1, t, stepRun_one hst, hpur, hlower⟩
    · have hk' : State.turn { t with turns := t.turns.skip k } = .engine := by
        rw [hturns, Draws.skip_skip, Nat.add_comm]; exact hk
      obtain ⟨m, u, hrun, hpur', hlower⟩ := ih hk' hpur.inv hb'
      exact ⟨1 + m, u, stepRun_add (stepRun_one hst) hrun, hpur.trans hb' hpur', hleft ▸ hlower⟩

/-- The machine's own steps end the command in progress. -/
theorem stepRun_reaches_idle (h : s.Inv) : ∃ k t, stepRun k s = .next t ∧ Pursues s t ∧ t.busy = false := by
  induction hn : s.stepsLeft using Nat.strong_induction_on generalizing s with
  | _ n ih =>
    cases hb : s.busy with
    | false => exact ⟨0, s, rfl, .refl h, hb⟩
    | true =>
      obtain ⟨j, hj⟩ := turn_engine s
      obtain ⟨m, t, hrun, hpur, hlower⟩ := engine_gets_its_turn hj h hb
      cases hb' : t.busy with
      | false => exact ⟨m, t, hrun, hpur, hb'⟩
      | true =>
        have hlt : t.stepsLeft < n := hn ▸ hlower.resolve_left (by simp [hb'])
        obtain ⟨k, u, hrun', hpur', hidle⟩ := ih _ hlt hpur.inv rfl
        exact ⟨m + k, u, stepRun_add hrun hrun', hpur.trans hb' hpur', hidle⟩

/-! ### The list of statements ends (70_reset_and_hazards.md R265) -/

/-- An idle block leaves the move to the outside world. -/
theorem step_idle (hp : s.ph = .idle) : step s = hostStep s := step_host (nextMover_idle hp)

/-- An idle block lets no statement wait, not even a `WAIT`. -/
theorem step_idle_pops {x : HostStmt} {rest : List HostStmt} (h : s.Inv) (hb : s.busy = false)
    (hs : s.script = x :: rest) : ∃ t, step s = .next t ∧ t.Inv ∧ t.script = rest := by
  obtain ⟨t, hst⟩ := hostStep_answers s
  have hstep := (step_idle (h.idle_of_not_busy hb)).trans hst
  refine ⟨t, hstep, h.hostStep hst, ?_⟩
  obtain ⟨-, e | ⟨-, h0 | ⟨rest', hw⟩⟩⟩ := hostStep_turns_script hst
  · rw [e, hs, List.tail_cons]
  · cases hs.symm.trans h0
  · obtain ⟨v, -, hv, -, -, -, hpop, -⟩ := waitEndsWhenNotBusy s rest' h.resetHeld hw
    cases hv.symm.trans hst
    cases hs.symm.trans hw
    exact hpop hb

/-- The machine's own steps end the run. -/
theorem stepRun_ends (h : s.Inv) : ∃ k t, stepRun k s = .next t ∧ t.script = [] ∧ t.busy = false := by
  induction hn : s.script.length using Nat.strong_induction_on generalizing s with
  | _ n ih =>
    obtain ⟨k, t, hrun, hpur, hidle⟩ := stepRun_reaches_idle h
    cases hs : t.script with
    | nil => exact ⟨k, t, hrun, hs, hidle⟩
    | cons x rest =>
      obtain ⟨u, hst, hu, hrest⟩ := step_idle_pops hpur.inv hidle hs
      have hlt : u.script.length < n := by
        have hle := hpur.script.length_le
        rw [hs, hn, List.length_cons] at hle
        rw [hrest]; omega
      obtain ⟨m, v, hrun', hend⟩ := ih _ hlt hu rfl
      exact ⟨k + (1 + m), v, stepRun_add hrun (stepRun_add (stepRun_one hst) hrun'), hend⟩

/-- Settles O60: the turns come round to the engine, whose steps end every command, so that every statement is
performed. -/
theorem fairRunsEnd : Obligations.FairRunsEnd := by
  refine ⟨turn_engine, fun s h hb => ?_, fun s rest h hs => ?_, fun s h => stepRun_ends h⟩
  · obtain ⟨k, t, hrun, hpur, hidle⟩ := stepRun_reaches_idle h
    exact ⟨k, t, hrun, hidle, fun hn => hpur.finishes hb (fun hm => hn _ hm rfl) hidle⟩
  · obtain ⟨k, t, hrun, hpur, hidle⟩ := stepRun_reaches_idle h
    have hts : t.script = .wait :: rest := (hpur.wait rest hs).trans hs
    obtain ⟨u, -, hpoll, -, -, -, hpop, hframe⟩ := waitEndsWhenNotBusy t rest hpur.inv.resetHeld hts
    have hst := (step_idle (hpur.inv.idle_of_not_busy hidle)).trans hpoll
    exact ⟨k + 1, u, stepRun_add hrun (stepRun_one hst), hpop hidle, by rw [hframe]; exact hidle⟩

end Sys2Proof.Machine
end
